-- ==== Sys2Proof/Word.lean ====
section
/-! DEFINITION. Bytes and byte vectors (00_scope.md R7). -/

namespace Sys2Proof

/-- A byte: 8 bits, an unsigned integer 0..255 (R7). -/
abbrev Byte := BitVec 8

/-- A byte vector of length `n`, element 0 first (R7, R43). -/
abbrev Bytes (n : Nat) := Vector Byte n

/-- `0^n`, the vector of `n` zero bytes (R7). -/
def zeros (n : Nat) : Bytes n := Vector.replicate n 0

end Sys2Proof
end

