-- ==== Sys2Proof/Config.lean ====
section
/-! DEFINITION. What an implementation of the TFC fixes: the scalar parameters of R4 and the function parameters of
R5, as opaque constants without a body, and the record that carries them to the commands as an argument. -/

namespace Sys2Proof

/-- The parameters a command depends on (R4, R5). The commands take them as an argument; `exec` runs them on
`Config.params`. The two directions of the frame transform are ONE permutation of the 20-byte frames for each key:
by R6 (`FrameRoundTrip` and the `FrameBijection` it implies) a pair FENC, FDEC is admissible exactly when it is such a
permutation and its inverse. DEDUCED (assumption 7); safe. -/
structure Params where
  /-- `NAME_W`, width in bytes of the name sub-range of the credential buffer, 0..16 (R4). -/
  nameW : Fin 17
  /-- `P16 (key, block)`, the 16-byte core primitive (R5); nothing is assumed of it (R6). -/
  p16 : Bytes 16 → Bytes 16 → Bytes 16
  /-- The frame transform of each key: `FENC (key, ·)` with its inverse `FDEC (key, ·)` (R5, R6). -/
  frame : Bytes 16 → Equiv.Perm (Bytes 20)

/-- `PASS_W = 16 - NAME_W` (R4). -/
def Params.passW (P : Params) : Nat := 16 - P.nameW.val

/-- `FENC (key, clear)`, frame encryption (R5). -/
def Params.fenc (P : Params) (key : Bytes 16) (clear : Bytes 20) : Bytes 20 := P.frame key clear

/-- `FDEC (key, cipher)`, frame decryption (R5). -/
def Params.fdec (P : Params) (key : Bytes 16) (cipher : Bytes 20) : Bytes 20 := (P.frame key).symm cipher

/-- `TFC_BASE / 128`. R4 leaves the base address open, a multiple of 128 (assumption 3); safe. -/
opaque Config.tfcBlock : Nat

/-- `TFC_BASE`, the bus address of offset 0 of the register window (R4, R35). -/
def Config.tfcBase : Nat := 128 * Config.tfcBlock

/-- `NAME_W` of the device (R4: 0..16, the spec's default is 8), left open (assumption 8); safe. -/
opaque Config.nameW : Fin 17

/-- `P16` of the device (R5), left open: the source does not define the cipher (R80, assumption 6); safe. -/
opaque Config.p16 : Bytes 16 → Bytes 16 → Bytes 16

/-- `FENC`, `FDEC` of the device (R5), left open but for R6 (assumptions 6 and 7); safe. -/
opaque Config.frame : Bytes 16 → Equiv.Perm (Bytes 20)

/-- The device's parameters. -/
def Config.params : Params where
  nameW := Config.nameW
  p16 := Config.p16
  frame := Config.frame

end Sys2Proof
end

