-- ==== Sys2Proof/Machine/Bus.lean ====
section
/-! DEFINITION. What reaches the TFC from outside: bus accesses that target the register window, and the reset input
(20_memory.md R35 to R41, 70_reset_and_hazards.md R125). -/

namespace Sys2Proof.Machine

/-- One bus access that targets the register window, as the triple (R or W, offset, data) that is the only encoding an
access has (95_test_vectors.md section 3, R61). `off` is the offset of the first window location it targets; `extra` is
how many bytes it is wider than one byte, so `extra = 0` is a byte access and anything else a wide access (R40). A wide
access changes nothing, so the data of its further lanes is not kept (assumption 4); safe. -/
inductive BusAccess where
  /-- A read. -/
  | read (off : BitVec 7) (extra : Nat)
  /-- A write; `v` is the byte on the lane of `off`. -/
  | write (off : BitVec 7) (extra : Nat) (v : Byte)
  deriving DecidableEq, Repr

/-- How many bytes the access is wider than one byte (R40). -/
def BusAccess.extra : BusAccess → Nat
  | .read _ extra => extra
  | .write _ extra _ => extra

/-- The first window offset the access targets. -/
def BusAccess.off : BusAccess → BitVec 7
  | .read off _ => off
  | .write off _ _ => off

/-- What the outside world does to the TFC, one event at a time (R32, R125). -/
inductive HostEvent where
  /-- One bus access of the window (R32). -/
  | access (b : BusAccess)
  /-- The reset input is driven: `true` asserts `RST`, `false` releases it (R125). -/
  | rst (level : Bool)
  deriving DecidableEq, Repr

/-- The bus address of a window offset, `TFC_BASE + off` (R35). -/
def busAddress (off : BitVec 7) : Nat := Config.tfcBase + off.toNat

/-- The first window offset that a bus access of `bytes` bytes at `addr` targets, if it targets any part of the window
(R40): `off = addr - TFC_BASE`, or offset 0 for a wide access that begins below the window. An access elsewhere does not
reach the TFC (R37, assumption 3). -/
def firstTarget (addr bytes : Nat) : Option (BitVec 7) :=
  if addr < Config.tfcBase + 128 ∧ Config.tfcBase < addr + bytes then some (BitVec.ofNat 7 (addr - Config.tfcBase)) else none

/-- A bus read of `extra + 1` bytes at `addr`, as far as it reaches the TFC: `MemRead(addr, 1)` where `extra = 0` (R38, R40). -/
def hostRead (addr extra : Nat) : Option BusAccess :=
  (firstTarget addr (extra + 1)).map fun off => .read off extra

/-- A bus write of `extra + 1` bytes at `addr`, as far as it reaches the TFC: `MemWrite(addr, 1, v)` where `extra = 0` (R39, R40). -/
def hostWrite (addr extra : Nat) (v : Byte) : Option BusAccess :=
  (firstTarget addr (extra + 1)).map fun off => .write off extra v

end Sys2Proof.Machine
end

