-- ==== Sys2Proof/Syntax.lean ====
section
/-! DEFINITION. The instructions: one constructor for each row of spec/opcode_table.json (R53, R55, R60). -/

namespace Sys2Proof

/-- What one byte access of the register window asks for. The first six are the commands, a write of their code to
`CMD` (R55); the last two are the host's byte read and byte write at a 7-bit offset (R60). -/
inductive Instr where
  /-- `NOP`, code 0x00 (R86). -/
  | nop
  /-- `DERIVE`, code 0x01 (R65). -/
  | derive
  /-- `ENC`, code 0x02 (R73). -/
  | enc
  /-- `DEC`, code 0x03 (R74). -/
  | dec
  /-- `BLKENC`, code 0x04 (R82). -/
  | blkenc
  /-- `ZEROIZE`, code 0x05 (R87). -/
  | zeroize
  /-- `RD8`, the byte read at offset `off` (R38). -/
  | rd8 (off : BitVec 7)
  /-- `WR8`, the byte write of `v` at offset `off` (R39). -/
  | wr8 (off : BitVec 7) (v : Byte)
  deriving DecidableEq, Repr

end Sys2Proof
end

