-- ==== Sys2Proof/WellFormed.lean ====
section
/-! DEFINITION. Which terms of `Instr` are an access as the decoder writes it. -/

namespace Sys2Proof

/-- A `WR8` at offset 0x00 whose byte is one of the six command codes IS that command, decoded by its CMD8 row
(spec/opcode_table.json, row `WR8`), so as a `WR8` term it is ill formed; every other term is well formed. Its meaning is
defined all the same (assumption 15). -/
def Instr.wellFormed : Instr → Bool
  | .nop => true
  | .derive => true
  | .enc => true
  | .dec => true
  | .blkenc => true
  | .zeroize => true
  | .rd8 _ => true
  | .wr8 off v => !(off.toNat == 0x00 && decide (v.toNat < 0x06))

end Sys2Proof
end

