-- ==== Sys2Proof/Decode.lean ====
section
/-! DEFINITION. From a bus access to its instruction and back (30_encoding.md R53 to R60, 20_memory.md R40). -/

namespace Sys2Proof

open Sys2Proof.Machine

/-- Why an access is no instruction. -/
inductive Reject where
  /-- The access is wider than one byte (R40): the machine answers it with a bus error. -/
  | wideAccess
  deriving DecidableEq, Repr

/-- The command that a byte written to `CMD` selects: the opcode map of R55. Codes 0x06..0xFF select none (R57). -/
def decodeCommand (c : Byte) : Option Instr :=
  match c.toNat with
  | 0x00 => some .nop
  | 0x01 => some .derive
  | 0x02 => some .enc
  | 0x03 => some .dec
  | 0x04 => some .blkenc
  | 0x05 => some .zeroize
  | _ => none

/-- The instruction of a bus access. A byte write to offset 0x00 is a command by the six CMD8 rows, and a `WR8` whose byte
is illegal otherwise (R55, R57); every other byte access is `RD8` or `WR8` (R60); a wide access is none (R40). -/
def decode : BusAccess → Except Reject Instr
  | .read off extra => if extra = 0 then .ok (.rd8 off) else .error .wideAccess
  | .write off extra v =>
    if extra = 0 then
      if off.toNat = 0x00 then .ok ((decodeCommand v).getD (.wr8 off v)) else .ok (.wr8 off v)
    else .error .wideAccess

/-- The bus access of an instruction, from the opcode map R55 and the access forms R60. -/
def encode : Instr → BusAccess
  | .nop => .write 0x00 0 0x00
  | .derive => .write 0x00 0 0x01
  | .enc => .write 0x00 0 0x02
  | .dec => .write 0x00 0 0x03
  | .blkenc => .write 0x00 0 0x04
  | .zeroize => .write 0x00 0 0x05
  | .rd8 off => .read off 0
  | .wr8 off v => .write off 0 v

/-- The bus access that 8 bits of spec/opcode_table.json stand for. The table's rows overlap as numbers: a CMD8 row numbers
the data byte of a write to `CMD`, a BUS8 row the offset, and the direction signal that tells `RD8` from `WR8` has no bit.
DESIGN CHOICE (assumption 14): 0x00..0x05 are read as CMD8 rows, 0x06..0x7F as the row `RD8`, and 0x80..0xFF, which match
no row, as nothing; safe, since no meaning depends on it. -/
def tableAccess (nbits w : Nat) : Option BusAccess :=
  if nbits ≠ 8 then none
  else if w < 0x06 then some (.write 0x00 0 (BitVec.ofNat 8 w))
  else if w < 0x80 then some (.read (BitVec.ofNat 7 w) 0)
  else none

/-- The instruction this decoder reads from `nbits` bits `w` numbered as spec/opcode_table.json numbers them; the bits are
laid out as a bus access by `tableAccess`. -/
def decodeTableWord (nbits w : Nat) : Option Instr :=
  match tableAccess nbits w with
  | none => none
  | some b =>
    match decode b with
    | .ok i => some i
    | .error _ => none

end Sys2Proof
end

