-- ==== Sys2Proof/Machine/State.lean ====
section
/-! DEFINITION. The state of the TFC (10_state.md), and around it the inputs still to come and the responses given. -/

namespace Sys2Proof.Machine

/-- The error kinds of R110: the document's five (R109) and the spec's own `IllegalCommand` (R57). -/
inductive ErrorKind where
  /-- Raised by `DERIVE` (R66). -/
  | invalidCredentials
  /-- Raised by `DERIVE` (R66). -/
  | pairingNonceError
  /-- Raised by `ENC`, `DEC` (R75) and `BLKENC` (R82). -/
  | invalidFrameLength
  /-- Never raised by the TFC; host software's Packet Builder only (R90, R110). -/
  | payloadTooLarge
  /-- Raised by `ENC`, `DEC` (R73, R74). -/
  | noActiveSession
  /-- Raised by a write of 0x06..0xFF to `CMD` (R57). -/
  | illegalCommand
  deriving DecidableEq, Repr

/-- What an access ends with (R32): the byte read, an acknowledgement, or the bus error of R41. -/
inductive Response where
  /-- The byte a read returned (R38). -/
  | data (v : Byte)
  /-- A write was performed (R39); a command's write too, also when the command failed (R57). -/
  | ack
  /-- `raise BusError(addr)` with `addr = busAddress off` (R41): no data, no state change. -/
  | busError (off : BitVec 7)
  deriving DecidableEq, Repr

/-- The complete state of the TFC: the 18 elements of R10 and nothing else. -/
structure Tfc where
  /-- `KEY`, the session key; it has no address (R11, R13). -/
  key : Bytes 16
  /-- `KEY_VALID` (R12). -/
  keyValid : Bool
  /-- `DONE` (R25). -/
  done : Bool
  /-- `ERR` (R25). -/
  err : Bool
  /-- `ERRCODE` (R26). -/
  errcode : Byte
  /-- `DLEN` (R21). -/
  dlen : Byte
  /-- `OLEN` (R23). -/
  olen : Byte
  /-- `NAME_LEN` (R16). -/
  nameLen : Byte
  /-- `PASS_LEN` (R16). -/
  passLen : Byte
  /-- `NL_LEN` (R18). -/
  nlLen : Byte
  /-- `NR_LEN` (R18). -/
  nrLen : Byte
  /-- `NAME` (R14). -/
  name : Bytes 16
  /-- `PASS` (R15). -/
  pass : Bytes 16
  /-- `NL`, the local nonce (R17). -/
  nl : Bytes 8
  /-- `NR`, the remote nonce (R17). -/
  nr : Bytes 8
  /-- `BKEY`, the key operand of `BLKENC` (R19). -/
  bkey : Bytes 16
  /-- `DIN`, the input datum (R20). -/
  din : Bytes 20
  /-- `DOUT`, the result of the last command (R22). -/
  dout : Bytes 20
  deriving DecidableEq, Repr

/-- The TFC after reset: the reset column of R10 (R30). -/
def Tfc.reset : Tfc where
  key := zeros 16
  keyValid := false
  done := false
  err := false
  errcode := 0x00
  dlen := 0x00
  olen := 0x00
  nameLen := 0x00
  passLen := 0x00
  nlLen := 0x00
  nrLen := 0x00
  name := zeros 16
  pass := zeros 16
  nl := zeros 8
  nr := zeros 8
  bkey := zeros 16
  din := zeros 20
  dout := zeros 20

/-- The machine a step acts on: the TFC, the level of its reset input, the host events still to come and the responses
given so far. The last three are the model's own: R32's step takes the host access as an argument and answers a response,
and here the argument comes from `script` and the answer goes to `trace` (assumptions 1, 2 and 9); safe. -/
structure State where
  /-- The 18 elements of the TFC (R10). -/
  tfc : Tfc
  /-- The level of the reset input `RST`: `true` while it is asserted (R125). -/
  rst : Bool
  /-- The host events still to come, the next one first, in the order the bus delivers them (R46, R61). -/
  script : List HostEvent
  /-- The responses given so far, the first one first (R108). -/
  trace : List Response
  deriving DecidableEq, Repr

/-- The machine right after reset: the TFC as R30 says, `RST` released, no host event placed and no response given
(assumptions 1, 2 and 9). -/
def State.reset : State where
  tfc := Tfc.reset
  rst := false
  script := []
  trace := []

/-- What stops the machine with a fault: nothing. "There is no fatal/unrecoverable state in the core itself" (R109), and
every access and every command byte in every state has exactly one outcome; an error kind is a completion (R112) and a
bus error a response (R41), both next states. DEDUCED (assumption 11); safe. -/
inductive Fault where
  deriving DecidableEq, Repr

/-- Why the model gives an event no meaning. -/
inductive Refusal where
  /-- The instruction is rejected by name in `exec`'s arm; no arm does so in this model. Safe. -/
  | notModelled (mnemonic : String)
  /-- Raised by `step` on an access while `RST` is asserted: "While it is asserted the TFC accepts no access" (R125), and
  what such an access ends with is unspecified, to be refused (U20). Safe. -/
  | accessDuringReset
  deriving DecidableEq, Repr

/-- What a step or a meaning answers. -/
abbrev Outcome := Host.Outcome State Fault Refusal

end Sys2Proof.Machine
end

