-- ==== Sys2Proof/Machine/Flags.lean ====
section
/-! DEFINITION. The flags of the TFC and the codes of its errors (10_state.md R25 to R27, 60_exceptions.md R110). -/

namespace Sys2Proof.Machine

/-- One flag as bit 0 of a byte (`zext_8`, R7). -/
def flagByte (b : Bool) : Byte := if b then 0x01 else 0x00

/-- `STATUS` as a read returns it: `KEY_VALID` in bit 0, `DONE` in bit 1, `ERR` in bit 2, bits 7:3 hardwired 0, among them
`BUSY` in bit 3 (R25, R38). -/
def Tfc.status (t : Tfc) : Byte := flagByte t.keyValid ||| (flagByte t.done <<< 1) ||| (flagByte t.err <<< 2)

/-- `code(e)`, the value of `ERRCODE` for an error kind (R110). -/
def ErrorKind.code : ErrorKind → Byte
  | .invalidCredentials => 0x01
  | .pairingNonceError => 0x02
  | .invalidFrameLength => 0x03
  | .payloadTooLarge => 0x04
  | .noActiveSession => 0x05
  | .illegalCommand => 0x06

end Sys2Proof.Machine
end

