-- ==== Sys2Proof/Machine/Ops.lean ====
section
/-! DEFINITION. The shared operations: error entry `fail(e)`, normal completion `succeed()`, the credential-write
invalidation, reset, and giving a response (60_exceptions.md R112, R113; 10_state.md R28, R30, R32). -/

namespace Sys2Proof.Machine

/-- `fail(e)`, the failure completion of a command, which is how the TFC takes an error: it writes these five elements and
nothing else (R112). There is no return from it (R116). -/
def Tfc.fail (e : ErrorKind) (t : Tfc) : Tfc :=
  { t with done := false, err := true, errcode := e.code, dout := zeros 20, olen := 0 }

/-- `succeed()`, the normal completion of a command, after the command's own writes (R113). -/
def Tfc.succeed (t : Tfc) : Tfc :=
  { t with done := true, err := false, errcode := 0x00 }

/-- The credential-write invalidation: the session ends and nothing else changes (R28). -/
def Tfc.endSession (t : Tfc) : Tfc :=
  { t with key := zeros 16, keyValid := false }

/-- An access has been performed: the TFC is now `t` and the master gets the response `r` (R32). -/
def State.respond (t : Tfc) (r : Response) (s : State) : State :=
  { s with tfc := t, trace := s.trace ++ [r] }

/-- The reset input is driven to `level`. Applying reset gives every element its reset value (R30), and when `RST` is
released every element has it (R125); driving a released input to released changes nothing (assumption 9). -/
def State.driveRst (level : Bool) (s : State) : State :=
  { s with tfc := if level || s.rst then Tfc.reset else s.tfc, rst := level }

/-- The host event that the machine performs next is taken from the script. -/
def State.advance (rest : List HostEvent) (s : State) : State :=
  { s with script := rest }

/-- A decoder's rejection answered on the bus: an access wider than a byte ends in a bus error for the whole access and
changes no TFC state (R40, R41). -/
def State.rejectAccess (off : BitVec 7) (s : State) : State :=
  s.respond s.tfc (.busError off)

/-- `b` becomes the next host event, with `RST` released so that the access is accepted (R125). -/
def State.placeAccess (b : BusAccess) (s : State) : State :=
  { s with rst := false, script := .access b :: s.script }

/-- A bus error in a list of responses. -/
def Response.isBusError : Response → Bool
  | .busError _ => true
  | .data _ => false
  | .ack => false

/-- The fault of the host script that R41 and U22 ask for: some access so far ended in a bus error. It is computed from the
trace, so it is never cleared; claims about a script take its absence as a premise (assumption 5). -/
def State.scriptFault (s : State) : Bool := s.trace.any Response.isBusError

end Sys2Proof.Machine
end

