-- ==== Sys2Proof/Machine/Operands.lean ====
section
/-! DEFINITION. The register map, and the operands the commands read (20_memory.md R36, R37; 40_key_derivation.md R64,
R67; 42_block_core.md R82). -/

namespace Sys2Proof.Machine

/-- What the register map places at an offset (R36). -/
inductive Loc where
  | cmd
  | status
  | errcode
  | dlen
  | olen
  | nameLen
  | passLen
  | nlLen
  | nrLen
  | name (i : Fin 16)
  | pass (i : Fin 16)
  | nl (i : Fin 8)
  | nr (i : Fin 8)
  | bkey (i : Fin 16)
  | din (i : Fin 20)
  | dout (i : Fin 20)
  /-- 0x09..0x0F, 0x64..0x67 and 0x7C..0x7F. -/
  | reserved (off : BitVec 7)
  deriving DecidableEq, Repr

/-- The access column of the register map (R36). -/
inductive Mode where
  | ro
  | wo
  | rw
  | noAccess
  deriving DecidableEq, Repr

/-- The register map of R36, from an offset to what stands there: byte `i` of a buffer is at its first offset plus `i`. -/
def locate (off : BitVec 7) : Loc :=
  if off.toNat = 0x00 then .cmd
  else if off.toNat = 0x01 then .status
  else if off.toNat = 0x02 then .errcode
  else if off.toNat = 0x03 then .dlen
  else if off.toNat = 0x04 then .olen
  else if off.toNat = 0x05 then .nameLen
  else if off.toNat = 0x06 then .passLen
  else if off.toNat = 0x07 then .nlLen
  else if off.toNat = 0x08 then .nrLen
  else if h : 0x10 ≤ off.toNat ∧ off.toNat < 0x20 then .name ⟨off.toNat - 0x10, by omega⟩
  else if h : 0x20 ≤ off.toNat ∧ off.toNat < 0x30 then .pass ⟨off.toNat - 0x20, by omega⟩
  else if h : 0x30 ≤ off.toNat ∧ off.toNat < 0x38 then .nl ⟨off.toNat - 0x30, by omega⟩
  else if h : 0x38 ≤ off.toNat ∧ off.toNat < 0x40 then .nr ⟨off.toNat - 0x38, by omega⟩
  else if h : 0x40 ≤ off.toNat ∧ off.toNat < 0x50 then .bkey ⟨off.toNat - 0x40, by omega⟩
  else if h : 0x50 ≤ off.toNat ∧ off.toNat < 0x64 then .din ⟨off.toNat - 0x50, by omega⟩
  else if h : 0x68 ≤ off.toNat ∧ off.toNat < 0x7C then .dout ⟨off.toNat - 0x68, by omega⟩
  else .reserved off

/-- The offset at which the register map places a location (R36). -/
def Loc.offset : Loc → BitVec 7
  | .cmd => 0x00
  | .status => 0x01
  | .errcode => 0x02
  | .dlen => 0x03
  | .olen => 0x04
  | .nameLen => 0x05
  | .passLen => 0x06
  | .nlLen => 0x07
  | .nrLen => 0x08
  | .name i => BitVec.ofNat 7 (0x10 + i.val)
  | .pass i => BitVec.ofNat 7 (0x20 + i.val)
  | .nl i => BitVec.ofNat 7 (0x30 + i.val)
  | .nr i => BitVec.ofNat 7 (0x38 + i.val)
  | .bkey i => BitVec.ofNat 7 (0x40 + i.val)
  | .din i => BitVec.ofNat 7 (0x50 + i.val)
  | .dout i => BitVec.ofNat 7 (0x68 + i.val)
  | .reserved off => off

/-- The access column of the register map (R36). -/
def Loc.mode : Loc → Mode
  | .cmd => .wo
  | .status => .ro
  | .errcode => .ro
  | .dlen => .rw
  | .olen => .ro
  | .nameLen => .rw
  | .passLen => .rw
  | .nlLen => .rw
  | .nrLen => .rw
  | .name _ => .wo
  | .pass _ => .wo
  | .nl _ => .rw
  | .nr _ => .rw
  | .bkey _ => .wo
  | .din _ => .rw
  | .dout _ => .ro
  | .reserved _ => .noAccess

/-- A byte read is permitted where the access is RO or RW (R37). -/
def Mode.readable : Mode → Bool
  | .ro => true
  | .rw => true
  | .wo => false
  | .noAccess => false

/-- A byte write is permitted where the access is WO or RW (R37). -/
def Mode.writable : Mode → Bool
  | .wo => true
  | .rw => true
  | .ro => false
  | .noAccess => false

/-- The byte a location holds, readable from the bus or not. `CMD` stores nothing (R24) and a reserved location holds
nothing; both count as 0x00 here, and no read returns that value (R37). -/
def Tfc.contents (t : Tfc) : Loc → Byte
  | .cmd => 0x00
  | .status => t.status
  | .errcode => t.errcode
  | .dlen => t.dlen
  | .olen => t.olen
  | .nameLen => t.nameLen
  | .passLen => t.passLen
  | .nlLen => t.nlLen
  | .nrLen => t.nrLen
  | .name i => t.name[i]
  | .pass i => t.pass[i]
  | .nl i => t.nl[i]
  | .nr i => t.nr[i]
  | .bkey i => t.bkey[i]
  | .din i => t.din[i]
  | .dout i => t.dout[i]
  | .reserved _ => 0x00

/-- `cred()`, the credential buffer (R64): the name's sub-range of `NAME_W` bytes, then the password's of `PASS_W`, each
zero from its declared length on. -/
def Tfc.cred (P : Params) (t : Tfc) : Bytes 16 :=
  Vector.ofFn fun i : Fin 16 =>
    if i.val < P.nameW.val then
      if i.val < t.nameLen.toNat then t.name[i] else 0x00
    else
      if i.val - P.nameW.val < t.passLen.toNat then t.pass[i.val - P.nameW.val]'(by omega) else 0x00

/-- The nonce block `NL ‖ NR`, the local nonce first (R67). -/
def Tfc.nonceBlock (t : Tfc) : Bytes 16 := t.nl ++ t.nr

/-- `DIN[0..15]`, the block operand of `BLKENC` (R82). -/
def Tfc.blockIn (t : Tfc) : Bytes 16 := Vector.ofFn fun i : Fin 16 => t.din[i.val]

/-- A 16-byte result in `DOUT`: `DOUT[0..15]` is the block and `DOUT[16..19]` is zero (R82). -/
def blockOut (b : Bytes 16) : Bytes 20 := Vector.ofFn fun i : Fin 20 => if h : i.val < 16 then b[i.val] else 0x00

end Sys2Proof.Machine
end

