-- ==== Sys2Proof/Machine/BlockCore.lean ====
section
/-! DEFINITION. The raw 16-byte core `BLKENC` (42_block_core.md). -/

namespace Sys2Proof.Machine

/-- `BLKENC` on the TFC (R82). -/
def Tfc.blkenc (P : Params) (t : Tfc) : Tfc :=
  if t.dlen.toNat ≠ 16 then t.fail .invalidFrameLength
  else Tfc.succeed { t with dout := blockOut (P.p16 t.bkey t.blockIn), olen := 16 }

/-- `BLKENC` (R82). -/
def execBlkenc (s : State) : Outcome := .next (s.respond (s.tfc.blkenc Config.params) .ack)

end Sys2Proof.Machine
end

