-- ==== Sys2Proof/Machine/Control.lean ====
section
/-! DEFINITION. The control commands `NOP` and `ZEROIZE` (43_control.md). -/

namespace Sys2Proof.Machine

/-- `NOP` on the TFC (R86). -/
def Tfc.nop (t : Tfc) : Tfc := t.succeed

/-- `ZEROIZE` on the TFC (R87): everything but `NAME`, `PASS`, `NAME_LEN`, `PASS_LEN` is cleared. -/
def Tfc.zeroize (t : Tfc) : Tfc :=
  Tfc.succeed
    { t with
      key := zeros 16, keyValid := false
      nl := zeros 8, nr := zeros 8, nlLen := 0, nrLen := 0
      bkey := zeros 16
      din := zeros 20, dlen := 0
      dout := zeros 20, olen := 0 }

/-- `NOP` (R86): the write of its code to `CMD` is acknowledged. -/
def execNop (s : State) : Outcome := .next (s.respond s.tfc.nop .ack)

/-- `ZEROIZE` (R87). -/
def execZeroize (s : State) : Outcome := .next (s.respond s.tfc.zeroize .ack)

end Sys2Proof.Machine
end

