-- ==== Sys2Proof/Machine/FrameCodec.lean ====
section
/-! DEFINITION. The frame codec `ENC`, `DEC` (41_frame_codec.md). -/

namespace Sys2Proof.Machine

/-- The common form of `ENC` and `DEC` (R73, R74): the session check, then the length check (R75, R115 (b)), then the
transform `f` of key and frame. The frame is 20 opaque bytes (R78), and no content of it is an error (R76). -/
def Tfc.codec (f : Bytes 16 → Bytes 20 → Bytes 20) (t : Tfc) : Tfc :=
  if t.keyValid = false then t.fail .noActiveSession
  else if t.dlen.toNat ≠ 20 then t.fail .invalidFrameLength
  else Tfc.succeed { t with dout := f t.key t.din, olen := 20 }

/-- `ENC` on the TFC (R73). -/
def Tfc.enc (P : Params) (t : Tfc) : Tfc := t.codec P.fenc

/-- `DEC` on the TFC (R74). -/
def Tfc.dec (P : Params) (t : Tfc) : Tfc := t.codec P.fdec

/-- `ENC` (R73). -/
def execEnc (s : State) : Outcome := .next (s.respond (s.tfc.enc Config.params) .ack)

/-- `DEC` (R74). -/
def execDec (s : State) : Outcome := .next (s.respond (s.tfc.dec Config.params) .ack)

end Sys2Proof.Machine
end

