-- ==== Sys2Proof/Machine/KeyDerivation.lean ====
section
/-! DEFINITION. The session-key derivation `DERIVE` (40_key_derivation.md). -/

namespace Sys2Proof.Machine

/-- `DERIVE` on the TFC (R65), with the error conditions of R66 in the order of R115 (a). -/
def Tfc.derive (P : Params) (t : Tfc) : Tfc :=
  if P.nameW.val < t.nameLen.toNat ∨ P.passW < t.passLen.toNat then t.fail .invalidCredentials
  else if t.nlLen.toNat ≠ 8 ∨ t.nrLen.toNat ≠ 8 then t.fail .pairingNonceError
  else
    Tfc.succeed
      { t with key := P.p16 (t.cred P) t.nonceBlock, keyValid := true, dout := zeros 20, olen := 0 }

/-- `DERIVE` (R65). -/
def execDerive (s : State) : Outcome := .next (s.respond (s.tfc.derive Config.params) .ack)

end Sys2Proof.Machine
end

