-- ==== Sys2Proof/Machine/Access.lean ====
section
/-! DEFINITION. The host's byte read and byte write, `RD8` and `WR8`, and the TFC's step on one bus access (20_memory.md
R37 to R41, 30_encoding.md R56, 10_state.md R32). -/

namespace Sys2Proof.Machine

/-- `run(c)`, the command dispatch of R56 on the byte `c` written to `CMD`; a code that selects no command fails (R57). -/
def Tfc.runCommand (P : Params) (c : Byte) (t : Tfc) : Tfc :=
  match c.toNat with
  | 0x00 => t.nop
  | 0x01 => t.derive P
  | 0x02 => t.enc P
  | 0x03 => t.dec P
  | 0x04 => t.blkenc P
  | 0x05 => t.zeroize
  | _ => t.fail .illegalCommand

/-- The effect of a permitted byte write of `v` at a location (R39). The locations that permit no write keep the state. -/
def Tfc.store (P : Params) (l : Loc) (v : Byte) (t : Tfc) : Tfc :=
  match l with
  | .cmd => t.runCommand P v
  | .dlen => { t with dlen := v }
  | .nameLen => Tfc.endSession { t with nameLen := v }
  | .passLen => Tfc.endSession { t with passLen := v }
  | .nlLen => { t with nlLen := v }
  | .nrLen => { t with nrLen := v }
  | .name i => Tfc.endSession { t with name := t.name.set i v }
  | .pass i => Tfc.endSession { t with pass := t.pass.set i v }
  | .nl i => { t with nl := t.nl.set i v }
  | .nr i => { t with nr := t.nr.set i v }
  | .bkey i => { t with bkey := t.bkey.set i v }
  | .din i => { t with din := t.din.set i v }
  | .status => t
  | .errcode => t
  | .olen => t
  | .dout _ => t
  | .reserved _ => t

/-- `MemRead(TFC_BASE + off, 1)` (R38): the byte at a readable location, else a bus error; no state change either way. -/
def Tfc.memRead (off : BitVec 7) (t : Tfc) : Response :=
  if (locate off).mode.readable then .data (t.contents (locate off)) else .busError off

/-- `MemWrite(TFC_BASE + off, 1, v)` (R39): the write at a writable location, else a bus error and no state change. -/
def Tfc.memWrite (P : Params) (off : BitVec 7) (v : Byte) (t : Tfc) : Tfc × Response :=
  if (locate off).mode.writable then (t.store P (locate off) v, .ack) else (t, .busError off)

/-- R32's step function, `State -> HostAccess -> State × Response`, on the 18 elements of the TFC. -/
def Tfc.access (P : Params) (b : BusAccess) (t : Tfc) : Tfc × Response :=
  match b with
  | .read off extra => if extra = 0 then (t, t.memRead off) else (t, .busError off)
  | .write off extra v => if extra = 0 then t.memWrite P off v else (t, .busError off)

/-- `RD8` (R38). -/
def execRd8 (off : BitVec 7) (s : State) : Outcome := .next (s.respond s.tfc (s.tfc.memRead off))

/-- `WR8` (R39). -/
def execWr8 (off : BitVec 7) (v : Byte) (s : State) : Outcome :=
  .next (s.respond (s.tfc.memWrite Config.params off v).1 (s.tfc.memWrite Config.params off v).2)

end Sys2Proof.Machine
end

