-- ==== Sys2Proof/Machine/Dispatch.lean ====
section
/-! DEFINITION. The dispatch of an instruction to its meaning, one arm per row of spec/opcode_table.json. -/

namespace Sys2Proof.Machine

def exec (i : Instr) (s : State) : Host.Outcome State Fault Refusal :=
  match i with
  | .nop => Sys2Proof.Machine.execNop s
  | .derive => Sys2Proof.Machine.execDerive s
  | .enc => Sys2Proof.Machine.execEnc s
  | .dec => Sys2Proof.Machine.execDec s
  | .blkenc => Sys2Proof.Machine.execBlkenc s
  | .zeroize => Sys2Proof.Machine.execZeroize s
  | .rd8 off => Sys2Proof.Machine.execRd8 off s
  | .wr8 off v => Sys2Proof.Machine.execWr8 off v s

end Sys2Proof.Machine
end

