-- ==== Sys2Proof/Machine/Step.lean ====
section
/-! DEFINITION. One step: the next host event of the script is performed (10_state.md R31, R32). -/

namespace Sys2Proof.Machine

/-- One step of the machine. With no host event left the TFC is idle and nothing changes (R31, assumption 10). `RST` is
driven (R125). An access while `RST` is asserted is refused (R125, U20); otherwise it is decoded and its instruction runs
to completion (R32), and a wide access ends in a bus error (R40). -/
def step (s : State) : Host.Outcome State Fault Refusal :=
  match s.script with
  | [] => .next s
  | .rst level :: rest => .next ((s.advance rest).driveRst level)
  | .access b :: rest =>
    if s.rst then .refused .accessDuringReset
    else
      match decode b with
      | .ok i => exec i (s.advance rest)
      | .error .wideAccess => .next ((s.advance rest).rejectAccess b.off)

/-- `s` with the access that the table's bits stand for as the next host event (assumptions 1 and 14). -/
def State.withFetchWord (s : State) (nbits w : Nat) : State :=
  match tableAccess nbits w with
  | some b => s.placeAccess b
  | none => s

end Sys2Proof.Machine
end

