-- ==== Sys2Proof/Machine/HostSide.lean ====
section
/-! DEFINITION. The host software around the TFC, as pure functions over host accesses (30_encoding.md R61, R62;
44_host_protocol.md). None of it is state of the TFC (00_scope.md R3, 10_state.md R29 (c)) and `exec` and `step` use none of
it (assumption 18). -/

namespace Sys2Proof.Machine

/-! ### Host scripts (R61, R62) -/

/-- The buffers a script loads or reads (R61). -/
inductive Buffer where
  | name
  | pass
  | nl
  | nr
  | bkey
  | din
  | dout
  deriving DecidableEq, Repr

/-- `base(B)`, the buffer's first offset (R36, R61). -/
def Buffer.base : Buffer → Nat
  | .name => 0x10
  | .pass => 0x20
  | .nl => 0x30
  | .nr => 0x38
  | .bkey => 0x40
  | .din => 0x50
  | .dout => 0x68

/-- The buffer's size in bytes (R36). -/
def Buffer.size : Buffer → Nat
  | .name => 16
  | .pass => 16
  | .nl => 8
  | .nr => 8
  | .bkey => 16
  | .din => 20
  | .dout => 20

/-- The length registers `SET` writes (R61). -/
inductive LenReg where
  | dlen
  | nameLen
  | passLen
  | nlLen
  | nrLen
  deriving DecidableEq, Repr

/-- `off(R)` (R36, R61). -/
def LenReg.offset : LenReg → BitVec 7
  | .dlen => 0x03
  | .nameLen => 0x05
  | .passLen => 0x06
  | .nlLen => 0x07
  | .nrLen => 0x08

/-- Byte writes of a list of bytes at ascending offsets from `at0`. -/
def writesFrom (at0 : Nat) : List Byte → List BusAccess
  | [] => []
  | v :: vs => .write (BitVec.ofNat 7 at0) 0 v :: writesFrom (at0 + 1) vs

/-- Byte reads at `n` ascending offsets from `at0`. -/
def readsFrom (at0 : Nat) : Nat → List BusAccess
  | 0 => []
  | n + 1 => .read (BitVec.ofNat 7 at0) 0 :: readsFrom (at0 + 1) n

/-- `LOAD B, b0 b1 ..` (R61); of a datum longer than its buffer at most the buffer's size is loaded (R62). -/
def loadScript (B : Buffer) (bytes : List Byte) : List BusAccess := writesFrom B.base (bytes.take B.size)

/-- `SET R, v` (R61). -/
def setScript (R : LenReg) (v : Byte) : List BusAccess := [.write R.offset 0 v]

/-- `CMD m` by its code (R61). -/
def commandScript (c : Byte) : List BusAccess := [.write 0x00 0 c]

/-- `LOADS B, "text"` (R61): the bytes of the ASCII text, no terminator. -/
def loadsScript (B : Buffer) (text : String) : List BusAccess :=
  loadScript B (text.toList.map fun c => BitVec.ofNat 8 c.toNat)

/-- `GET R` by its offset (R61). -/
def getScript (off : BitVec 7) : List BusAccess := [.read off 0]

/-- `READ B, n` (R61). -/
def readScript (B : Buffer) (n : Nat) : List BusAccess := readsFrom B.base n

/-- The true length of a datum as the host declares it in a length register (R62). A length that a byte cannot hold is
declared as 255, which every command rejects. DESIGN CHOICE (assumption 18); safe. -/
def lengthByte (n : Nat) : Byte := BitVec.ofNat 8 (min n 255)

/-- `derive_session_key(name, password, nl, nr)` as a script (R62). -/
def deriveScript (name password nl nr : List Byte) : List BusAccess :=
  loadScript .name name ++ setScript .nameLen (lengthByte name.length) ++
  loadScript .pass password ++ setScript .passLen (lengthByte password.length) ++
  loadScript .nl nl ++ setScript .nlLen (lengthByte nl.length) ++
  loadScript .nr nr ++ setScript .nrLen (lengthByte nr.length) ++ commandScript 0x01

/-- `encrypt(cleartext, KEY)` as a script, up to its command (R62). -/
def encScript (cleartext : List Byte) : List BusAccess :=
  loadScript .din cleartext ++ setScript .dlen (lengthByte cleartext.length) ++ commandScript 0x02

/-- `decrypt(ciphertext, KEY)` as a script, up to its command (R62). -/
def decScript (ciphertext : List Byte) : List BusAccess :=
  loadScript .din ciphertext ++ setScript .dlen (lengthByte ciphertext.length) ++ commandScript 0x03

/-- The pairing-step encryption of a 16-byte block under a 16-byte key as a script, up to its command (R62, R83). -/
def blkencScript (key block : List Byte) : List BusAccess :=
  loadScript .bkey key ++ loadScript .din block ++ setScript .dlen 16 ++ commandScript 0x04

/-- Disconnect as a script: the key is zeroized (R62, R130). -/
def disconnectScript : List BusAccess := commandScript 0x05

/-- A script run on the TFC: the fold of R32's step over its accesses in order (R46), with the responses (R108). -/
def Tfc.play (P : Params) : List BusAccess → Tfc → Tfc × List Response
  | [], t => (t, [])
  | b :: bs, t => ((Tfc.play P bs (t.access P b).1).1, (t.access P b).2 :: (Tfc.play P bs (t.access P b).1).2)

/-- The byte of a response; the other responses carry no data and count as 0x00 here. -/
def Response.byte : Response → Byte
  | .data v => v
  | .ack => 0x00
  | .busError _ => 0x00

/-- The error of the last command as the host finds it: `GET STATUS`, and `GET ERRCODE` where `ERR = 1` (R104, R133). -/
def Tfc.lastError (t : Tfc) : Option Byte :=
  if (t.memRead 0x01).byte.getLsbD 2 then some (t.memRead 0x02).byte else none

/-- `EXPECT_OK` (R61). -/
def Tfc.expectOk (t : Tfc) : Bool :=
  (t.memRead 0x01).byte.getLsbD 1 && !(t.memRead 0x01).byte.getLsbD 2 && (t.memRead 0x02).byte == 0x00

/-- `EXPECT_ERR e` (R61). -/
def Tfc.expectErr (t : Tfc) (e : Byte) : Bool :=
  !(t.memRead 0x01).byte.getLsbD 1 && (t.memRead 0x01).byte.getLsbD 2 && (t.memRead 0x02).byte == e

/-- `READ DOUT` (R61). -/
def Tfc.readDout (t : Tfc) : Bytes 20 :=
  Vector.ofFn fun i : Fin 20 => (t.memRead (BitVec.ofNat 7 (0x68 + i.val))).byte

/-! ### The host's own data (R89, R91, R94, R95) -/

/-- Byte order of the sequence field (R4 `SEQ_ORDER`, R44). -/
inductive SeqOrder where
  | le
  | be
  deriving DecidableEq, Repr

/-- The typed reports (R97; five parsers, 90_conflicts.md C3). -/
inductive ReportKind where
  | time
  | address
  | deviceInfo
  | groupId
  | onlineStatus
  deriving DecidableEq, Repr

/-- The numbers that are a mesh address of an individual device (R95). -/
def isDeviceAddress (n : Nat) : Bool := decide (1 ≤ n ∧ n ≤ 254)

/-- The numbers that are a mesh address of a group (R95). -/
def isGroupAddress (n : Nat) : Bool := decide (0x8000 ≤ n ∧ n ≤ 0x80FF)

/-- A MeshAddress of an individual device (R95). -/
abbrev DeviceAddress := { n : Nat // isDeviceAddress n = true }

/-- A MeshAddress of a group (R95). -/
abbrev GroupAddress := { n : Nat // isGroupAddress n = true }

/-- The fields of a time report (R97). Their widths are not in the source (N14, assumption 21). -/
structure TimeReport where
  year : Nat
  month : Nat
  day : Nat
  hour : Nat
  minute : Nat
  second : Nat
  weekday : Nat
  deriving DecidableEq, Repr

/-- The fields of a device-info report: firmware and hardware identifiers and version fields (R97). How many bytes each has is
not in the source (N14, assumption 21). -/
structure DeviceInfoReport where
  firmware : List Byte
  hardware : List Byte
  versions : List (List Byte)
  deriving DecidableEq, Repr

/-- What an online-status report says of one device: its liveness and its state flags (R97). The meaning and the number of the
flags are not in the source (N14, assumption 21). Nor is how an entry says which device it is about: that `device` is an
individual mesh address of R95 is the model's. DESIGN CHOICE (assumption 21); safe for the TFC, unsafe for a claim on
`device`. -/
structure DeviceStatus where
  device : DeviceAddress
  live : Bool
  flags : List Bool
  deriving DecidableEq, Repr

/-- An online-status report: one or more devices sharing the mesh (R97). -/
structure OnlineStatusReport where
  first : DeviceStatus
  others : List DeviceStatus
  deriving DecidableEq, Repr

/-- A decoded report: "one of TimeReport, AddressReport, DeviceInfoReport, GroupIdReport, OnlineStatusReport, Unrecognized" (R97,
R98). The address of an address report is the device's own individual address, the one R95 calls mutable by an address edit:
DEDUCED (assumption 21). -/
inductive Report where
  /-- The time fields. -/
  | time (r : TimeReport)
  /-- The resulting address after an edit. -/
  | address (a : DeviceAddress)
  /-- Identifiers and versions. -/
  | deviceInfo (r : DeviceInfoReport)
  /-- The set of group memberships currently assigned. -/
  | groupId (groups : Finset GroupAddress)
  /-- Liveness and state flags of devices. -/
  | onlineStatus (r : OnlineStatusReport)
  /-- An unknown command, with its raw byte and payload. -/
  | unrecognized (command : Byte) (payload : Bytes 10)
  deriving DecidableEq

/-- The high-level operations of the session (R100), with the mesh address that the three editing operations are about (R95). The
source gives no signature of any operation. DESIGN CHOICE (assumption 20): `set_mesh_id` takes a device address, `add_group` and
`delete_group` a group address, the queries nothing; safe, since what a frame carries for an operation and its operand is an
argument (`HostParams.opContents`). -/
inductive SessionOp where
  | queryTime
  | queryDeviceInfo
  | queryGroups
  | setMeshId (a : DeviceAddress)
  | addGroup (g : GroupAddress)
  | deleteGroup (g : GroupAddress)
  | queryMeshId
  deriving DecidableEq, Repr

/-- What the source leaves open on the host's side, as an argument of the host's functions (R4, R103, U3 to U9, N9 to N14). -/
structure HostParams where
  /-- `SEQ_ORDER`, the spec's default is LE (R4). -/
  seqOrder : SeqOrder
  /-- `VENDOR_BYTE`, the spec's default is 0x00 (R4). -/
  vendorByte : Byte
  /-- `REGISTRY`, which command code carries which report (R103). -/
  registry : Byte → Option ReportKind
  /-- The dispatcher's check of the 6 address bytes of a frame (R96, U4). -/
  addressAccepted : Bytes 6 → Bool
  /-- Command code and payload of a session operation and its operand (R100, N11). -/
  opContents : SessionOp → Byte × List Byte
  /-- The parser of a time report, a pure function of the payload, as all five are (R97, N14). -/
  timeOf : Bytes 10 → TimeReport
  /-- The parser of an address report. -/
  meshOf : Bytes 10 → DeviceAddress
  /-- The parser of a device-info report. -/
  deviceInfoOf : Bytes 10 → DeviceInfoReport
  /-- The parser of a group-id report. -/
  groupsOf : Bytes 10 → Finset GroupAddress
  /-- The parser of an online-status report. -/
  onlineStatusOf : Bytes 10 → OnlineStatusReport

/-- `REGISTRY(c)`; `REGISTRY(0x00) = none` (R103). -/
def HostParams.kindOf (H : HostParams) (c : Byte) : Option ReportKind := if c = 0x00 then none else H.registry c

/-- The contents of a session operation; the one the source gives is time-query, 0xE8 with an empty payload (R100). -/
def HostParams.contentsOf (H : HostParams) (op : SessionOp) : Byte × List Byte :=
  if op = .queryTime then (0xE8, []) else H.opContents op

/-- The host software's own state (R89). -/
structure HostState where
  /-- SequenceCounter (R91). -/
  seq : BitVec 16
  /-- The device address in canonical order, the leftmost pair first (R94). -/
  addr : Bytes 6
  /-- The device's own individual mesh address, once known: singular (R95, R99). -/
  mesh : Option DeviceAddress
  /-- The set of the device's group memberships, as far as known (R95, R99). -/
  groups : Finset GroupAddress
  deriving DecidableEq

/-- The host software at its start: the counter starts at 1 (R91), and nothing is cached (assumption 18). -/
def HostState.start (addr : Bytes 6) : HostState where
  seq := 1
  addr := addr
  mesh := none
  groups := ∅

/-- The byte-reversed wire form, `r[i] = a[5 - i]` (R94). -/
def reversedAddress (a : Bytes 6) : Bytes 6 := Vector.ofFn fun i : Fin 6 => a[5 - i.val]

/-! ### Packet Builder (R70, R90 to R92) -/

/-- The two bytes of the sequence field (R44, R90). -/
def seqBytes (o : SeqOrder) (seq : BitVec 16) : Byte × Byte :=
  match o with
  | .le => (seq.extractLsb' 0 8, seq.extractLsb' 8 8)
  | .be => (seq.extractLsb' 8 8, seq.extractLsb' 0 8)

/-- The cleartext frame: sequence, command, vendor byte, reversed address, payload zero-padded to 10 bytes (R70, R90). -/
def layoutFrame (H : HostParams) (seq : BitVec 16) (command : Byte) (address : Bytes 6) (payload : List Byte) : Bytes 20 :=
  Vector.ofFn fun i : Fin 20 =>
    if i.val = 0 then (seqBytes H.seqOrder seq).1
    else if i.val = 1 then (seqBytes H.seqOrder seq).2
    else if i.val = 2 then command
    else if i.val = 3 then H.vendorByte
    else if h : i.val < 10 then address[i.val - 4]
    else payload.getD (i.val - 10) 0x00

/-- `build(command, payload, seq, address)` (R90): the length check before the session is used (U10), the frame laid out and
encrypted, and the counter incremented mod 65536 exactly when the build succeeds (R92). An error is its code of R110. -/
def build (P : Params) (H : HostParams) (h : HostState) (t : Tfc) (command : Byte) (payload : List Byte)
    (address : Bytes 6) : HostState × Tfc × Except Byte (Bytes 20) :=
  if 10 < payload.length then (h, t, .error ErrorKind.payloadTooLarge.code)
  else
    let t' := (t.play P (encScript (layoutFrame H h.seq command address payload).toList)).1
    match t'.lastError with
    | some e => (h, t', .error e)
    | none => ({ h with seq := h.seq + 1 }, t', .ok t'.readDout)

/-- A session operation: its contents are built into a frame to the device's own reversed address (R100). -/
def sessionOp (P : Params) (H : HostParams) (h : HostState) (t : Tfc) (op : SessionOp) :
    HostState × Tfc × Except Byte (Bytes 20) :=
  build P H h t (H.contentsOf op).1 (H.contentsOf op).2 (reversedAddress h.addr)

/-! ### Command Dispatcher (R96 to R99) -/

/-- The reversed-address field of a frame (R70). -/
def frameAddress (f : Bytes 20) : Bytes 6 := Vector.ofFn fun i : Fin 6 => f[4 + i.val]

/-- The payload field of a frame (R70). -/
def framePayload (f : Bytes 20) : Bytes 10 := Vector.ofFn fun i : Fin 10 => f[10 + i.val]

/-- The dedicated parser of a kind of report, from the 10-byte payload to the typed report (R97). -/
def HostParams.parse (H : HostParams) (kind : ReportKind) (payload : Bytes 10) : Report :=
  match kind with
  | .time => .time (H.timeOf payload)
  | .address => .address (H.meshOf payload)
  | .deviceInfo => .deviceInfo (H.deviceInfoOf payload)
  | .groupId => .groupId (H.groupsOf payload)
  | .onlineStatus => .onlineStatus (H.onlineStatusOf payload)

/-- The dispatch of a cleartext frame: a recognized command byte and an accepted address give the typed report of its parser,
everything else is `Unrecognized` with no further parsing, which is no error (R96 to R98). -/
def dispatchFrame (H : HostParams) (f : Bytes 20) : Report :=
  match H.kindOf f[2] with
  | some kind =>
    if H.addressAccepted (frameAddress f) then H.parse kind (framePayload f) else .unrecognized f[2] (framePayload f)
  | none => .unrecognized f[2] (framePayload f)

/-- What a report feeds back into the session's cached attributes, address and group memberships (R99). That every address report
and every group-id report does so is the model's: R99 calls it optional. DESIGN CHOICE (assumption 22); unsafe. -/
def HostState.feedback (r : Report) (h : HostState) : HostState :=
  match r with
  | .address a => { h with mesh := some a }
  | .groupId groups => { h with groups := groups }
  | .time _ => h
  | .deviceInfo _ => h
  | .onlineStatus _ => h
  | .unrecognized _ _ => h

/-- `on_inbound(ciphertext)` (R96). If `DEC` fails, its error goes to the caller (U9). Session State takes up every report, which R99
leaves optional (`HostState.feedback`): DESIGN CHOICE (assumption 22); unsafe. -/
def onInbound (P : Params) (H : HostParams) (h : HostState) (t : Tfc) (ciphertext : Bytes 20) :
    HostState × Tfc × Except Byte Report :=
  let t' := (t.play P (decScript ciphertext.toList)).1
  match t'.lastError with
  | some e => (h, t', .error e)
  | none => (h.feedback (dispatchFrame H t'.readDout), t', .ok (dispatchFrame H t'.readDout))

/-! ### Session (R91, R102, R130, R132) -/

/-- The derivation of a session key at pairing, with the counter set to 1 after a successful `DERIVE` (R91, R102, R127). The cached
mesh address and group memberships are kept: DESIGN CHOICE (assumption 19), the spec is silent; unsafe. -/
def startSession (P : Params) (h : HostState) (t : Tfc) (name password nl nr : List Byte) :
    HostState × Tfc × Option Byte :=
  let t' := (t.play P (deriveScript name password nl nr)).1
  match t'.lastError with
  | some e => (h, t', some e)
  | none => ({ h with seq := 1 }, t', none)

/-- Disconnect: `ZEROIZE` is issued, and the counter is kept (R130, 90_conflicts.md C4). The cached mesh address and group
memberships are kept: DESIGN CHOICE (assumption 19), the spec is silent; unsafe. -/
def disconnect (P : Params) (h : HostState) (t : Tfc) : HostState × Tfc := (h, (t.play P disconnectScript).1)

/-- Replacing the device address, which the TFC never holds, is followed by `ZEROIZE` (R94, R132). What becomes of the cached mesh
address and group memberships, which were the old device's, the spec does not say; they are kept until a report replaces them:
DESIGN CHOICE (assumption 19); unsafe. -/
def replaceAddress (P : Params) (addr : Bytes 6) (h : HostState) (t : Tfc) : HostState × Tfc :=
  ({ h with addr := addr }, (t.play P disconnectScript).1)

end Sys2Proof.Machine
end

