-- ==== Sys2Proof/Safety.lean ====
section
/-! DEFINITION. What a good state of the machine is, in the terms the statements use. -/

namespace Sys2Proof.Machine

/-- The invariant of the TFC: no key without a session (R12); `DONE` and `ERR` never both 1 (R25); `ERRCODE` is nonzero
exactly when `ERR = 1` (R26) and is a code the TFC can raise (R110); `OLEN` is 0, 16 or 20 (R23), with `DOUT` zero beyond
`OLEN` (R22, R82); after an error there is no result (R112). -/
structure Tfc.Inv (t : Tfc) : Prop where
  noKeyWithoutSession : t.keyValid = false → t.key = zeros 16
  notBoth : ¬(t.done = true ∧ t.err = true)
  errIffCode : t.err = true ↔ t.errcode ≠ 0x00
  codeRaised : t.errcode ∈ [(0x00 : Byte), 0x01, 0x02, 0x03, 0x05, 0x06]
  olenValues : t.olen ∈ [(0 : Byte), 16, 20]
  zeroBeyond : ∀ i : Fin 20, t.olen.toNat ≤ i.val → t.dout[i] = 0x00
  noResultAfterError : t.err = true → t.olen = 0

/-- The invariant of the machine: the TFC's, and while `RST` is asserted the TFC is in its reset state (R30, R125). -/
structure State.Inv (s : State) : Prop where
  tfc : s.tfc.Inv
  inReset : s.rst = true → s.tfc = Tfc.reset

/-- The script fault of R41 and U22 has not happened: no access so far ended in a bus error. It is the premise R41 asks of
claims about a script. -/
def State.Clean (s : State) : Prop := s.scriptFault = false

/-- Two machines that agree on everything but the session key (R13). -/
def State.SameButKey (s s' : State) : Prop := s' = { s with tfc := { s.tfc with key := s'.tfc.key } }

/-- The event is the write of the code of `ENC` or `DEC` to `CMD`: the two commands that read `KEY` (R11, R55). -/
def HostEvent.isFrameCommand : HostEvent → Bool
  | .access (.write off extra v) => off == 0x00 && extra == 0 && (v == 0x02 || v == 0x03)
  | .access (.read _ _) => false
  | .rst _ => false

/-- The instruction is a write to `CMD`: one of the six commands, or a `WR8` at offset 0x00 (R24, R55, R57). -/
def isCommandWrite : Instr → Bool
  | .nop => true
  | .derive => true
  | .enc => true
  | .dec => true
  | .blkenc => true
  | .zeroize => true
  | .rd8 _ => false
  | .wr8 off _ => off == 0x00

/-- The offset belongs to `NAME_LEN`, `PASS_LEN`, `NAME` or `PASS`, whose accepted writes end the session (R28). -/
def isCredentialOffset (off : BitVec 7) : Bool :=
  off == 0x05 || off == 0x06 || decide (0x10 ≤ off.toNat ∧ off.toNat ≤ 0x2F)

end Sys2Proof.Machine
end

