-- ==== Sys2Proof/Certificates/Slice0/Obligations.lean ====
section
/-! DEFINITION. The statements for the provers. `P16`, `FENC`, `FDEC` and `NAME_W` are those of `Config.params`, so a statement
holds whatever they are. Where a statement speaks of the response of an access (R32, R108), it reads it off the end of
`trace`; that the model keeps the responses there is its own choice (assumption 2), as it is that the host's accesses come
from `script` (assumption 1). -/

open Sys2Proof Sys2Proof.Machine

/-! ### Encoding -/

/-- The command codes, bit by bit as in R55's map, and every code that selects no command (R57). -/
def Obligations.CommandCodesDecode : Prop :=
  decode (.write 0x00 0 0b00000000#8) = .ok .nop ∧
  decode (.write 0x00 0 0b00000001#8) = .ok .derive ∧
  decode (.write 0x00 0 0b00000010#8) = .ok .enc ∧
  decode (.write 0x00 0 0b00000011#8) = .ok .dec ∧
  decode (.write 0x00 0 0b00000100#8) = .ok .blkenc ∧
  decode (.write 0x00 0 0b00000101#8) = .ok .zeroize ∧
  (∀ c : Byte, 0x06 ≤ c.toNat → decode (.write 0x00 0 c) = .ok (.wr8 0x00 c))

/-- Decoding the encoding of a well-formed instruction gives it back, at every offset and every data byte. -/
def Obligations.DecodeOfEncode : Prop :=
  ∀ i : Instr, i.wellFormed = true → decode (encode i) = .ok i

/-- Every access that decodes is the encoding of what it decodes to, and that instruction is well formed: no two accesses
have one meaning, and no decoded instruction is ill formed. -/
def Obligations.EncodeOfDecode : Prop :=
  ∀ (b : BusAccess) (i : Instr), decode b = .ok i → encode i = b ∧ i.wellFormed = true

/-- The register map places each of the 128 offsets once: the location at an offset has that offset (R36). -/
def Obligations.RegisterMapOffsets : Prop :=
  ∀ off : BitVec 7, (locate off).offset = off

/-- `off = addr - TFC_BASE`: an access at the bus address of an offset targets that offset, and a byte access outside the 128
addresses of the window targets none (R35, R37, R38). -/
def Obligations.WindowAddresses : Prop :=
  (∀ off : BitVec 7, firstTarget (busAddress off) 1 = some off) ∧
  (∀ addr : Nat, addr < Config.tfcBase ∨ Config.tfcBase + 0x7F < addr → firstTarget addr 1 = none)

/-! ### The step -/

/-- An access that decodes runs as its instruction, with the access taken off the script; the script is the model's form of
R32's host access (assumption 1). -/
def Obligations.StepRunsDecodedInstruction : Prop :=
  ∀ (s : State) (b : BusAccess) (rest : List HostEvent) (i : Instr),
    s.rst = false → s.script = .access b :: rest → decode b = .ok i → i.wellFormed = true →
    step s = exec i { s with script := rest }

/-- An access wider than a byte ends in a bus error for the whole access and changes no TFC state (R40). -/
def Obligations.WideAccessBusError : Prop :=
  ∀ (s : State) (b : BusAccess) (rest : List HostEvent),
    s.rst = false → s.script = .access b :: rest → 0 < b.extra →
    step s = .next { s with script := rest, trace := s.trace ++ [.busError b.off] }

/-- With no host event left nothing changes: between host accesses the TFC is idle (R31; the idle step is the model's choice,
assumption 10). -/
def Obligations.IdleStepKeepsState : Prop :=
  ∀ s : State, s.script = [] → step s = .next s

/-- Applying reset, from any state whatever, gives every one of the 18 elements its value in R10's reset column, and so do the
release of reset and the start of the machine (R30; that reset reaches the model as a host event is assumption 9). -/
def Obligations.ResetGivesResetValues : Prop :=
  (∀ (s : State) (level : Bool) (rest : List HostEvent), s.script = .rst level :: rest → (level = true ∨ s.rst = true) →
    ∃ t, step s = .next t ∧ t.tfc = State.reset.tfc) ∧
  State.reset.tfc =
    { key := Vector.replicate 16 0, keyValid := false, done := false, err := false, errcode := 0x00, dlen := 0x00,
      olen := 0x00, nameLen := 0x00, passLen := 0x00, nlLen := 0x00, nrLen := 0x00, name := Vector.replicate 16 0,
      pass := Vector.replicate 16 0, nl := Vector.replicate 8 0, nr := Vector.replicate 8 0,
      bkey := Vector.replicate 16 0, din := Vector.replicate 20 0, dout := Vector.replicate 20 0 }

/-- While `RST` is asserted no access is accepted: it is refused by name (R125; that it is refused and not given a meaning
follows U20, assumption 9). -/
def Obligations.AccessDuringResetRefused : Prop :=
  ∀ (s : State) (b : BusAccess) (rest : List HostEvent),
    s.rst = true → s.script = .access b :: rest → step s = .refused .accessDuringReset

/-- Every step answers a next state, but for an access while `RST` is asserted: there is no fatal state (R109). -/
def Obligations.StepAnswersUnlessInReset : Prop :=
  ∀ s : State, (∃ t, step s = .next t) ∨
    (s.rst = true ∧ (∃ b rest, s.script = .access b :: rest) ∧ step s = .refused .accessDuringReset)

/-! ### What each instruction does -/

/-- `NOP` succeeds in every state and changes nothing but `DONE`, `ERR`, `ERRCODE` (R86). -/
def Obligations.NopResult : Prop :=
  decode (.write 0x00 0 0x00) = .ok .nop ∧
  ∀ s : State, ∃ t, exec .nop s = .next t ∧ t.tfc = { s.tfc with done := true, err := false, errcode := 0x00 }

/-- `ZEROIZE` succeeds in every state; it clears everything but `NAME`, `PASS`, `NAME_LEN`, `PASS_LEN`; what it leaves is the
reset state but for these four and `DONE`; doing it twice is doing it once; and an `ENC` after it finds no session (R87). -/
def Obligations.ZeroizeResult : Prop :=
  decode (.write 0x00 0 0x05) = .ok .zeroize ∧
  ∀ s : State, ∃ t, exec .zeroize s = .next t ∧
    t.tfc =
      { key := Vector.replicate 16 0, keyValid := false, done := true, err := false, errcode := 0x00, dlen := 0x00,
        olen := 0x00, nameLen := s.tfc.nameLen, passLen := s.tfc.passLen, nlLen := 0x00, nrLen := 0x00,
        name := s.tfc.name, pass := s.tfc.pass, nl := Vector.replicate 8 0, nr := Vector.replicate 8 0,
        bkey := Vector.replicate 16 0, din := Vector.replicate 20 0, dout := Vector.replicate 20 0 } ∧
    t.tfc =
      { State.reset.tfc with
        name := s.tfc.name, pass := s.tfc.pass, nameLen := s.tfc.nameLen, passLen := s.tfc.passLen, done := true } ∧
    (∃ u, exec .zeroize t = .next u ∧ u.tfc = t.tfc) ∧
    (∃ u, exec .enc t = .next u ∧ u.tfc.err = true ∧ u.tfc.errcode = 0x05)

/-- `DERIVE` (R65, R66, R115): over-long credentials first, then a nonce of the wrong length, else the new session key, with the
flags, the output and the frame of each case. The key is `P16` of `cred()` and `NL ‖ NR` (R67). -/
def Obligations.DeriveResult : Prop :=
  decode (.write 0x00 0 0x01) = .ok .derive ∧
  ∀ s : State, ∃ t, exec .derive s = .next t ∧
    t.tfc =
      if Config.nameW.val < s.tfc.nameLen.toNat ∨ 16 - Config.nameW.val < s.tfc.passLen.toNat then
        { s.tfc with done := false, err := true, errcode := 0x01, dout := Vector.replicate 20 0, olen := 0 }
      else if s.tfc.nlLen ≠ 8 ∨ s.tfc.nrLen ≠ 8 then
        { s.tfc with done := false, err := true, errcode := 0x02, dout := Vector.replicate 20 0, olen := 0 }
      else
        { s.tfc with
          key := Config.p16 (s.tfc.cred Config.params) (s.tfc.nl ++ s.tfc.nr), keyValid := true
          dout := Vector.replicate 20 0, olen := 0, done := true, err := false, errcode := 0x00 }

/-- `ENC` (R73): no session first, then a wrong length, else `FENC(KEY, DIN)`, with the flags, the output and the frame of each
case. -/
def Obligations.EncResult : Prop :=
  decode (.write 0x00 0 0x02) = .ok .enc ∧
  ∀ s : State, ∃ t, exec .enc s = .next t ∧
    t.tfc =
      if s.tfc.keyValid = false then
        { s.tfc with done := false, err := true, errcode := 0x05, dout := Vector.replicate 20 0, olen := 0 }
      else if s.tfc.dlen ≠ 20 then
        { s.tfc with done := false, err := true, errcode := 0x03, dout := Vector.replicate 20 0, olen := 0 }
      else
        { s.tfc with
          dout := Config.params.fenc s.tfc.key s.tfc.din, olen := 20, done := true, err := false, errcode := 0x00 }

/-- `DEC` (R74): no session first, then a wrong length, else `FDEC(KEY, DIN)`; and of a ciphertext of the same session it gives the
cleartext back, by the law of R6. -/
def Obligations.DecResult : Prop :=
  decode (.write 0x00 0 0x03) = .ok .dec ∧
  ∀ s : State, ∃ t, exec .dec s = .next t ∧
    (t.tfc =
      if s.tfc.keyValid = false then
        { s.tfc with done := false, err := true, errcode := 0x05, dout := Vector.replicate 20 0, olen := 0 }
      else if s.tfc.dlen ≠ 20 then
        { s.tfc with done := false, err := true, errcode := 0x03, dout := Vector.replicate 20 0, olen := 0 }
      else
        { s.tfc with
          dout := Config.params.fdec s.tfc.key s.tfc.din, olen := 20, done := true, err := false, errcode := 0x00 }) ∧
    (∀ x : Bytes 20, s.tfc.keyValid = true → s.tfc.dlen = 20 → s.tfc.din = Config.params.fenc s.tfc.key x →
      t.tfc.dout = x)

/-- For every content of `DIN`, `DEC` with a session and `DLEN = 20` succeeds and yields `FDEC(KEY, DIN)`: nothing of the
ciphertext is an error, and nothing records whether the frame looked valid (R76). -/
def Obligations.DecSucceedsOnEveryCiphertext : Prop :=
  ∀ (s : State) (y : Bytes 20), s.tfc.keyValid = true → s.tfc.dlen = 20 →
    ∃ t, exec .dec { s with tfc := { s.tfc with din := y } } = .next t ∧
      t.tfc =
        { s.tfc with
          din := y, dout := Config.params.fdec s.tfc.key y, olen := 20, done := true, err := false, errcode := 0x00 }

/-- `BLKENC` (R82): a wrong length fails; else `DOUT[0..15]` is `P16(BKEY, DIN[0..15])`, `DOUT[16..19]` is zero, `OLEN` is 16, and
nothing else but the completion changes. It needs no session, and `DIN[16..19]` do not matter. -/
def Obligations.BlkencResult : Prop :=
  decode (.write 0x00 0 0x04) = .ok .blkenc ∧
  ∀ s : State, ∃ t, exec .blkenc s = .next t ∧
    (s.tfc.dlen ≠ 16 →
      t.tfc = { s.tfc with done := false, err := true, errcode := 0x03, dout := Vector.replicate 20 0, olen := 0 }) ∧
    (s.tfc.dlen = 16 →
      t.tfc = { s.tfc with dout := t.tfc.dout, olen := 16, done := true, err := false, errcode := 0x00 } ∧
      (∀ b : Bytes 16, (∀ i : Fin 16, b[i] = s.tfc.din[i.val]) →
        ∀ i : Fin 16, t.tfc.dout[i.val] = (Config.p16 s.tfc.bkey b)[i]) ∧
      (∀ i : Fin 4, t.tfc.dout[16 + i.val] = 0x00))

/-- `RD8` (R38): the byte R36 places at a readable offset, or a bus error; no state of the TFC changes, and a second read of the
same offset gives the same response. The response is read off the end of `trace` (assumption 2). -/
def Obligations.ReadResult : Prop :=
  ∀ (s : State) (off : BitVec 7), ∃ t r, exec (.rd8 off) s = .next t ∧ t.tfc = s.tfc ∧ t.trace = s.trace ++ [r] ∧
    r =
      (if off.toNat = 0x01 then
        .data ((BitVec.ofBool s.tfc.keyValid).setWidth 8 ||| ((BitVec.ofBool s.tfc.done).setWidth 8 <<< 1) |||
          ((BitVec.ofBool s.tfc.err).setWidth 8 <<< 2))
      else if off.toNat = 0x02 then .data s.tfc.errcode
      else if off.toNat = 0x03 then .data s.tfc.dlen
      else if off.toNat = 0x04 then .data s.tfc.olen
      else if off.toNat = 0x05 then .data s.tfc.nameLen
      else if off.toNat = 0x06 then .data s.tfc.passLen
      else if off.toNat = 0x07 then .data s.tfc.nlLen
      else if off.toNat = 0x08 then .data s.tfc.nrLen
      else if h : 0x30 ≤ off.toNat ∧ off.toNat ≤ 0x37 then .data s.tfc.nl[off.toNat - 0x30]
      else if h : 0x38 ≤ off.toNat ∧ off.toNat ≤ 0x3F then .data s.tfc.nr[off.toNat - 0x38]
      else if h : 0x50 ≤ off.toNat ∧ off.toNat ≤ 0x63 then .data s.tfc.din[off.toNat - 0x50]
      else if h : 0x68 ≤ off.toNat ∧ off.toNat ≤ 0x7B then .data s.tfc.dout[off.toNat - 0x68]
      else .busError off) ∧
    ∃ u, exec (.rd8 off) t = .next u ∧ u.tfc = s.tfc ∧ u.trace = t.trace ++ [r]

/-- `WR8` (R39): at 0x00 the command with that code runs; at a writable register the byte is stored, and where it is a
credential register the session ends; anywhere else the access ends in a bus error and no state of the TFC changes. The
response is read off the end of `trace` (assumption 2). -/
def Obligations.WriteResult : Prop :=
  ∀ (s : State) (off : BitVec 7) (v : Byte),
    (off.toNat = 0x00 → ∀ i, decodeCommand v = some i → exec (.wr8 off v) s = exec i s) ∧
    (off.toNat = 0x00 → decodeCommand v = none → ∃ t, exec (.wr8 off v) s = .next t ∧ t.trace = s.trace ++ [.ack] ∧
      t.tfc = { s.tfc with done := false, err := true, errcode := 0x06, dout := Vector.replicate 20 0, olen := 0 }) ∧
    (off.toNat ≠ 0x00 → ∃ t r, exec (.wr8 off v) s = .next t ∧ t.trace = s.trace ++ [r] ∧
      (t.tfc, r) =
        if off.toNat = 0x03 then ({ s.tfc with dlen := v }, .ack)
        else if off.toNat = 0x05 then
          ({ s.tfc with nameLen := v, key := Vector.replicate 16 0, keyValid := false }, .ack)
        else if off.toNat = 0x06 then
          ({ s.tfc with passLen := v, key := Vector.replicate 16 0, keyValid := false }, .ack)
        else if off.toNat = 0x07 then ({ s.tfc with nlLen := v }, .ack)
        else if off.toNat = 0x08 then ({ s.tfc with nrLen := v }, .ack)
        else if h : 0x10 ≤ off.toNat ∧ off.toNat ≤ 0x1F then
          ({ s.tfc with
              name := s.tfc.name.set (off.toNat - 0x10) v, key := Vector.replicate 16 0, keyValid := false }, .ack)
        else if h : 0x20 ≤ off.toNat ∧ off.toNat ≤ 0x2F then
          ({ s.tfc with
              pass := s.tfc.pass.set (off.toNat - 0x20) v, key := Vector.replicate 16 0, keyValid := false }, .ack)
        else if h : 0x30 ≤ off.toNat ∧ off.toNat ≤ 0x37 then
          ({ s.tfc with nl := s.tfc.nl.set (off.toNat - 0x30) v }, .ack)
        else if h : 0x38 ≤ off.toNat ∧ off.toNat ≤ 0x3F then
          ({ s.tfc with nr := s.tfc.nr.set (off.toNat - 0x38) v }, .ack)
        else if h : 0x40 ≤ off.toNat ∧ off.toNat ≤ 0x4F then
          ({ s.tfc with bkey := s.tfc.bkey.set (off.toNat - 0x40) v }, .ack)
        else if h : 0x50 ≤ off.toNat ∧ off.toNat ≤ 0x63 then
          ({ s.tfc with din := s.tfc.din.set (off.toNat - 0x50) v }, .ack)
        else (s.tfc, .busError off))

/-- A write to `NAME`, `PASS`, `NAME_LEN` or `PASS_LEN` stores its byte and, whatever the byte and whether or not there was a
session, clears `KEY` and `KEY_VALID` in the same step and changes nothing else (R28). -/
def Obligations.CredentialWriteEndsSession : Prop :=
  ∀ (s : State) (off : BitVec 7) (v : Byte),
    (off.toNat = 0x05 ∨ off.toNat = 0x06 ∨ (0x10 ≤ off.toNat ∧ off.toNat ≤ 0x2F)) →
    ∃ t, exec (.wr8 off v) s = .next t ∧ t.tfc.contents (locate off) = v ∧
      (∀ l, l ≠ locate off → l ≠ .status → t.tfc.contents l = s.tfc.contents l) ∧
      t.tfc.key = Vector.replicate 16 0 ∧ t.tfc.keyValid = false ∧ t.tfc.done = s.tfc.done ∧ t.tfc.err = s.tfc.err

/-- A write of a byte to `CMD` runs the command R56 lists for it, and after it exactly one of `DONE`, `ERR` is 1 (R56). -/
def Obligations.CommandWriteDispatches : Prop :=
  ∀ (s : State) (c : Byte),
    (c = 0x00 → exec (.wr8 0x00 c) s = exec .nop s) ∧
    (c = 0x01 → exec (.wr8 0x00 c) s = exec .derive s) ∧
    (c = 0x02 → exec (.wr8 0x00 c) s = exec .enc s) ∧
    (c = 0x03 → exec (.wr8 0x00 c) s = exec .dec s) ∧
    (c = 0x04 → exec (.wr8 0x00 c) s = exec .blkenc s) ∧
    (c = 0x05 → exec (.wr8 0x00 c) s = exec .zeroize s) ∧
    ∃ t, exec (.wr8 0x00 c) s = .next t ∧ (t.tfc.done ^^ t.tfc.err) = true ∧
      (0x06 ≤ c.toNat →
        t.tfc = { s.tfc with done := false, err := true, errcode := 0x06, dout := Vector.replicate 20 0, olen := 0 })

/-- A code 0x06..0xFF fails with `IllegalCommand` and changes nothing else; the write itself is acknowledged (R57; the
acknowledgement is read off the end of `trace`, assumption 2). -/
def Obligations.IllegalCommandFails : Prop :=
  ∀ (s : State) (c : Byte), 0x06 ≤ c.toNat →
    ∃ t, exec (.wr8 0x00 c) s = .next t ∧ t.trace = s.trace ++ [.ack] ∧
      t.tfc = { s.tfc with err := true, done := false, errcode := 0x06, dout := Vector.replicate 20 0, olen := 0 }

/-! ### Completions and frames -/

/-- Every write to `CMD` completes in one of the two ways, with the codes the command can raise (the table of R114, an inference
the spec marks as its own), and a failing one changes `DONE`, `ERR`, `ERRCODE`, `DOUT`, `OLEN` and nothing else (R112). A `WR8` at
0x00 is held to the row of the command its byte selects, and from 0x06 on to the last row: never success, always
`IllegalCommand`. -/
def Obligations.CommandCompletions : Prop :=
  ∀ (i : Instr) (s : State), isCommandWrite i = true → ∃ t, exec i s = .next t ∧
    ((t.tfc.done = true ∧ t.tfc.err = false ∧ t.tfc.errcode = 0x00 ∧
        (∀ c, i = .wr8 0x00 c → decodeCommand c ≠ none)) ∨
      (∃ e : ErrorKind, t.tfc =
          { s.tfc with done := false, err := true, errcode := e.code, dout := Vector.replicate 20 0, olen := 0 } ∧
        (i = .derive → e = .invalidCredentials ∨ e = .pairingNonceError) ∧
        (i = .enc ∨ i = .dec → e = .noActiveSession ∨ e = .invalidFrameLength) ∧
        (i = .blkenc → e = .invalidFrameLength) ∧
        i ≠ .nop ∧ i ≠ .zeroize ∧ e ≠ .payloadTooLarge ∧
        (∀ c, i = .wr8 0x00 c →
          (decodeCommand c = none → e = .illegalCommand) ∧
          (decodeCommand c = some .derive → e = .invalidCredentials ∨ e = .pairingNonceError) ∧
          (decodeCommand c = some .enc ∨ decodeCommand c = some .dec → e = .noActiveSession ∨ e = .invalidFrameLength) ∧
          (decodeCommand c = some .blkenc → e = .invalidFrameLength) ∧
          decodeCommand c ≠ some .nop ∧ decodeCommand c ≠ some .zeroize)))

/-- What a write to `CMD` leaves unchanged in every case, success or failure (R54, R112): the credentials always; the nonces,
`BKEY`, `DIN`, `DLEN` unless it is `ZEROIZE`; the key unless it is `DERIVE` or `ZEROIZE`; `DOUT`, `OLEN` if it is `NOP`. -/
def Obligations.CommandFrame : Prop :=
  ∀ (i : Instr) (s t : State), isCommandWrite i = true → exec i s = .next t →
    (t.tfc.name = s.tfc.name ∧ t.tfc.pass = s.tfc.pass ∧ t.tfc.nameLen = s.tfc.nameLen ∧ t.tfc.passLen = s.tfc.passLen) ∧
    (i ≠ .zeroize → i ≠ .wr8 0x00 0x05 →
      t.tfc.nl = s.tfc.nl ∧ t.tfc.nr = s.tfc.nr ∧ t.tfc.nlLen = s.tfc.nlLen ∧ t.tfc.nrLen = s.tfc.nrLen ∧
      t.tfc.bkey = s.tfc.bkey ∧ t.tfc.din = s.tfc.din ∧ t.tfc.dlen = s.tfc.dlen) ∧
    (i ∉ [Instr.derive, .zeroize, .wr8 0x00 0x01, .wr8 0x00 0x05] →
      t.tfc.key = s.tfc.key ∧ t.tfc.keyValid = s.tfc.keyValid) ∧
    (i = .nop → t.tfc.dout = s.tfc.dout ∧ t.tfc.olen = s.tfc.olen) ∧
    t.rst = s.rst ∧ t.script = s.script

/-- What a read, and a write anywhere but to `CMD`, leaves unchanged (R38, R39, R42, R116): the completion of the last command
and its result always; every location but the one addressed; the key unless it is a credential write. -/
def Obligations.DataAccessFrame : Prop :=
  ∀ (i : Instr) (s t : State), isCommandWrite i = false → exec i s = .next t →
    (t.tfc.done = s.tfc.done ∧ t.tfc.err = s.tfc.err ∧ t.tfc.errcode = s.tfc.errcode ∧ t.tfc.dout = s.tfc.dout ∧
      t.tfc.olen = s.tfc.olen) ∧
    (∀ off, i = .rd8 off → t.tfc = s.tfc) ∧
    (∀ off v, i = .wr8 off v → ∀ l, l ≠ locate off → l ≠ .status → t.tfc.contents l = s.tfc.contents l) ∧
    (∀ off v, i = .wr8 off v → isCredentialOffset off = false → t.tfc.key = s.tfc.key ∧ t.tfc.keyValid = s.tfc.keyValid) ∧
    t.rst = s.rst ∧ t.script = s.script

/-- Every instruction answers with exactly one response, put at the end of the trace; a command is always acknowledged (R32, R57;
where the responses are kept is the model's choice, assumption 2). -/
def Obligations.OneResponseEach : Prop :=
  ∀ (i : Instr) (s : State), ∃ t r, exec i s = .next t ∧ t.trace = s.trace ++ [r] ∧
    (isCommandWrite i = true → r = .ack) ∧
    (r.isBusError = true → t.tfc = s.tfc)

/-- The same write to `CMD` repeated at once changes nothing more. For `DERIVE`, `ENC`, `DEC`, `BLKENC`, `ZEROIZE` this is R42's
idempotence with unchanged inputs (an inference that R42 marks as the spec's own). For `NOP` and for the codes 0x06..0xFF it is
not R42's, which calls a write to `CMD` not idempotent in general: it is inferred here from what R86 and R57 say they write. -/
def Obligations.CommandsIdempotent : Prop :=
  ∀ (i : Instr) (s t : State), isCommandWrite i = true → exec i s = .next t →
    ∃ u, exec i t = .next u ∧ u.tfc = t.tfc

/-! ### Whole-machine rules -/

/-- The machine's invariant holds after reset. -/
def Obligations.InvariantAtReset : Prop := State.reset.Inv

/-- Every step keeps the machine's invariant: no key without a session; `DONE` and `ERR` never both 1; `ERRCODE` nonzero exactly
when `ERR` is 1, and a code the TFC raises; `OLEN` 0, 16 or 20 and `DOUT` zero beyond it; no result after an error; the reset
state while `RST` is asserted (R12, R22, R23, R25, R26, R110, R125; inferences these rules mark as the spec's own). -/
def Obligations.StepKeepsInvariant : Prop :=
  ∀ s t : State, s.Inv → step s = .next t → t.Inv

/-- `KEY` and `KEY_VALID` change in exactly the ways R11 and R12 list: a successful `DERIVE` writes the derived key and sets the
bit; `ZEROIZE`, a credential write and reset clear both. -/
def Obligations.KeyWrittenOnlyAsListed : Prop :=
  ∀ s t : State, step s = .next t → (t.tfc.key ≠ s.tfc.key ∨ t.tfc.keyValid ≠ s.tfc.keyValid) →
    ∃ e rest, s.script = e :: rest ∧
      ((e = .access (.write 0x00 0 0x01) ∧ t.tfc.keyValid = true ∧ t.tfc.done = true ∧
          t.tfc.key = Config.p16 (s.tfc.cred Config.params) (s.tfc.nl ++ s.tfc.nr)) ∨
        (t.tfc.keyValid = false ∧ t.tfc.key = Vector.replicate 16 0 ∧
          (e = .access (.write 0x00 0 0x05) ∨
            (∃ off v, e = .access (.write off 0 v) ∧ isCredentialOffset off = true) ∨
            (∃ level, e = .rst level ∧ (level = true ∨ s.rst = true)))))

/-- Non-exposure of the key (R13): over any script without `ENC` and `DEC`, two machines that differ only in the session key
answer every access alike and still differ at most in the key. -/
def Obligations.KeyUnobservableWithoutFrames : Prop :=
  ∀ (n : Nat) (s s' : State), s.SameButKey s' → (∀ e ∈ s.script, e.isFrameCommand = false) →
    (∀ t, core.run n s = .next t → ∃ t', core.run n s' = .next t' ∧ State.SameButKey t t' ∧ t'.trace = t.trace) ∧
    (∀ r, core.run n s = .refused r → core.run n s' = .refused r)

/-- The cleartext boundary (R34, an inference the spec marks as its own): after `ENC`, `DOUT` is `FENC(KEY, DIN)` of the state
before it, which had a session, or zero with the error recorded. -/
def Obligations.CleartextBoundary : Prop :=
  ∀ s : State, ∃ t, exec .enc s = .next t ∧
    ((t.tfc.dout = Config.params.fenc s.tfc.key s.tfc.din ∧ s.tfc.keyValid = true ∧ t.tfc.done = true) ∨
      (t.tfc.dout = Vector.replicate 20 0 ∧ t.tfc.err = true))

/-- The round trip at command level, both ways (R77, an inference the spec marks as its own, from the law of R6 and the
permutation of assumption 7): in a session, from any state of the other registers, loading any frame, `ENC`, loading what
`DOUT` then holds, and `DEC`, leaves the frame in `DOUT`; and so with `DEC` first. Each script is 22 accesses. -/
def Obligations.CommandRoundTrip : Prop :=
  ∀ (s : State) (x : Bytes 20), s.rst = false → s.tfc.keyValid = true →
    (∃ t u, core.run 22 { s with script := (encScript x.toList).map .access } = .next t ∧
      t.tfc.dout = Config.params.fenc s.tfc.key x ∧
      core.run 22 { t with script := (decScript t.tfc.dout.toList).map .access } = .next u ∧ u.tfc.dout = x) ∧
    (∃ t u, core.run 22 { s with script := (decScript x.toList).map .access } = .next t ∧
      t.tfc.dout = Config.params.fdec s.tfc.key x ∧
      core.run 22 { t with script := (encScript t.tfc.dout.toList).map .access } = .next u ∧ u.tfc.dout = x)

/-- A script is the fold of R32's step over its accesses in order (R46): running its accesses from the script (assumption 1),
whatever they are and whatever follows them, gives the TFC of that fold, and its responses at the end of `trace`
(assumption 2). -/
def Obligations.ScriptIsFold : Prop :=
  ∀ (bs : List BusAccess) (s : State) (rest : List HostEvent), s.rst = false → s.script = bs.map .access ++ rest →
    core.run bs.length s =
      .next { s with
        tfc := (s.tfc.play Config.params bs).1, script := rest, trace := s.trace ++ (s.tfc.play Config.params bs).2 }

/-- A step only adds to the trace, and the script fault is never cleared (R41, U22; computed from the trace, assumption 5). -/
def Obligations.ScriptFaultNeverCleared : Prop :=
  ∀ s t : State, step s = .next t →
    (∃ rs, t.trace = s.trace ++ rs ∧ rs.length ≤ 1) ∧ (s.scriptFault = true → t.scriptFault = true)

/-! ### Key derivation -/

/-- The credential buffer (R64), for every width of the name's sub-range: each field zero-padded from its declared length on. -/
def Obligations.CredentialLayout : Prop :=
  ∀ (P : Params) (t : Tfc),
    (∀ i : Nat, ∀ _h : i < P.nameW.val,
      (t.cred P)[i]'(by omega) = if i < t.nameLen.toNat then t.name[i]'(by omega) else 0x00) ∧
    (∀ j : Nat, ∀ _h : j < 16 - P.nameW.val,
      (t.cred P)[P.nameW.val + j]'(by omega) = if j < t.passLen.toNat then t.pass[j]'(by omega) else 0x00)

/-- Bytes of `NAME` and `PASS` from the declared length on do not matter: two states that agree on the declared parts and on
the nonces derive the same key (R69 (a)). -/
def Obligations.StaleCredentialBytesIgnored : Prop :=
  ∀ s s' t : State,
    s'.tfc.nameLen = s.tfc.nameLen → s'.tfc.passLen = s.tfc.passLen → s'.tfc.nlLen = s.tfc.nlLen →
    s'.tfc.nrLen = s.tfc.nrLen → s'.tfc.nl = s.tfc.nl → s'.tfc.nr = s.tfc.nr →
    (∀ i : Fin 16, i.val < s.tfc.nameLen.toNat → s'.tfc.name[i] = s.tfc.name[i]) →
    (∀ i : Fin 16, i.val < s.tfc.passLen.toNat → s'.tfc.pass[i] = s.tfc.pass[i]) →
    exec .derive s = .next t → t.tfc.done = true →
    ∃ t', exec .derive s' = .next t' ∧ t'.tfc.done = true ∧ t'.tfc.key = t.tfc.key

/-- A trailing zero byte of the name is zero padding: declaring it gives the same credential buffer (R69 (b)). -/
def Obligations.TrailingZeroIsPadding : Prop :=
  ∀ (P : Params) (t : Tfc) (i : Fin 16), i.val = t.nameLen.toNat → t.name[i] = 0x00 →
    Tfc.cred P { t with nameLen := t.nameLen + 1 } = t.cred P

/-- `DERIVE` computes what `BLKENC` computes on the credential buffer and the nonce block (R69 (f), R84 (b); inferences the spec
marks as its own): the key after the one is `DOUT[0..15]` after the other. -/
def Obligations.DeriveAgreesWithBlkenc : Prop :=
  ∀ s s' : State,
    s.tfc.nameLen.toNat ≤ Config.nameW.val → s.tfc.passLen.toNat ≤ 16 - Config.nameW.val → s.tfc.nlLen = 8 →
    s.tfc.nrLen = 8 → s'.tfc.bkey = s.tfc.cred Config.params → s'.tfc.dlen = 16 →
    (∀ i : Fin 8, s'.tfc.din[i.val] = s.tfc.nl[i] ∧ s'.tfc.din[8 + i.val] = s.tfc.nr[i]) →
    ∃ t t', exec .derive s = .next t ∧ exec .blkenc s' = .next t' ∧ ∀ i : Fin 16, t'.tfc.dout[i.val] = t.tfc.key[i]

/-- Distinct cleartexts have distinct ciphertexts under one key (R77, from the `FrameBijection` of R6, which the model's
permutation carries, assumption 7). -/
def Obligations.DistinctFramesStayDistinct : Prop :=
  ∀ s s' t t' : State, s.tfc.keyValid = true → s'.tfc.keyValid = true → s.tfc.dlen = 20 → s'.tfc.dlen = 20 →
    s'.tfc.key = s.tfc.key → s'.tfc.din ≠ s.tfc.din → exec .enc s = .next t → exec .enc s' = .next t' →
    t'.tfc.dout ≠ t.tfc.dout

/-! ### The host software around the TFC -/

/-- What the cleartext frame holds (R70, R90): the sequence number in its two bytes by `SEQ_ORDER` (R44), the command, the vendor
byte, the address field, which for a reversed address is the canonical one backwards (R94), and the payload zero-padded on the
right to 10 bytes. -/
def Obligations.LayoutFrameFields : Prop :=
  ∀ (H : HostParams) (seq : BitVec 16) (command : Byte) (address canonical : Bytes 6) (payload : List Byte),
    (H.seqOrder = .le →
      (layoutFrame H seq command address payload)[0].toNat = seq.toNat % 256 ∧
      (layoutFrame H seq command address payload)[1].toNat = seq.toNat / 256) ∧
    (H.seqOrder = .be →
      (layoutFrame H seq command address payload)[0].toNat = seq.toNat / 256 ∧
      (layoutFrame H seq command address payload)[1].toNat = seq.toNat % 256) ∧
    (layoutFrame H seq command address payload)[2] = command ∧
    (layoutFrame H seq command address payload)[3] = H.vendorByte ∧
    (∀ i : Fin 6, (layoutFrame H seq command address payload)[4 + i.val] = address[i]) ∧
    (∀ i : Fin 6, (layoutFrame H seq command (reversedAddress canonical) payload)[4 + i.val] = canonical[5 - i.val]) ∧
    (∀ i : Fin 10, (layoutFrame H seq command address payload)[10 + i.val] =
      if h : i.val < payload.length then payload[i.val] else 0x00)

/-- A build in a session with a payload of at most 10 bytes gives `FENC` of the frame laid out, leaves the session, and adds
exactly 1 mod 65536 to the counter (R90, R92). -/
def Obligations.BuildSucceedsInSession : Prop :=
  ∀ (P : Params) (H : HostParams) (h : HostState) (t : Tfc) (command : Byte) (payload : List Byte) (address : Bytes 6),
    t.keyValid = true → payload.length ≤ 10 →
    ∃ t', build P H h t command payload address =
        ({ h with seq := h.seq + 1 }, t', .ok (P.fenc t.key (layoutFrame H h.seq command address payload))) ∧
      t'.key = t.key ∧ t'.keyValid = true

/-- A build that fails touches neither the counter nor the session (R90, R92): in a session a payload of more than 10 bytes fails
with `PayloadTooLarge` and the TFC is not touched; a payload that fits fails without a session with `NoActiveSession`; when both
conditions hold it fails with one of the two (which one U10 leaves to the host's rule). -/
def Obligations.BuildFailures : Prop :=
  ∀ (P : Params) (H : HostParams) (h : HostState) (t : Tfc) (command : Byte) (payload : List Byte) (address : Bytes 6),
    (10 < payload.length → t.keyValid = true → build P H h t command payload address = (h, t, .error 0x04)) ∧
    (payload.length ≤ 10 → t.keyValid = false →
      ∃ t', build P H h t command payload address = (h, t', .error 0x05) ∧ t'.key = t.key ∧ t'.keyValid = false) ∧
    (10 < payload.length → t.keyValid = false →
      ∃ t' e, build P H h t command payload address = (h, t', .error e) ∧ (e = 0x04 ∨ e = 0x05) ∧ t'.key = t.key ∧
        t'.keyValid = false)

/-- The dispatch of a cleartext frame (R96 to R98, R103): a registered command byte with an accepted address gives the report of
its kind's own parser on the payload and no other kind; an address that is not accepted, an unregistered byte and the byte
0x00 give `Unrecognized` with that byte and the payload. The parsers are arguments of the host (assumptions 18 and 21). -/
def Obligations.DispatchRoutesToParser : Prop :=
  ∀ (H : HostParams) (f : Bytes 20) (payload : Bytes 10), (∀ i : Fin 10, payload[i] = f[10 + i.val]) →
    (∀ kind, H.kindOf f[2] = some kind → H.addressAccepted (frameAddress f) = true →
      (kind = .time → dispatchFrame H f = .time (H.timeOf payload)) ∧
      (kind = .address → dispatchFrame H f = .address (H.meshOf payload)) ∧
      (kind = .deviceInfo → dispatchFrame H f = .deviceInfo (H.deviceInfoOf payload)) ∧
      (kind = .groupId → dispatchFrame H f = .groupId (H.groupsOf payload)) ∧
      (kind = .onlineStatus → dispatchFrame H f = .onlineStatus (H.onlineStatusOf payload))) ∧
    (H.addressAccepted (frameAddress f) = false → dispatchFrame H f = .unrecognized f[2] payload) ∧
    (H.kindOf f[2] = none → dispatchFrame H f = .unrecognized f[2] payload) ∧
    (f[2] = 0x00 → dispatchFrame H f = .unrecognized 0x00 payload)

/-- In a session every inbound frame gives a report and never an error, and a frame whose command byte is not registered gives
`Unrecognized` with that byte (R76, R96, R98). -/
def Obligations.InboundNeverAborts : Prop :=
  ∀ (P : Params) (H : HostParams) (h : HostState) (t : Tfc) (y : Bytes 20), t.keyValid = true →
    ∃ h' t' r, onInbound P H h t y = (h', t', .ok r) ∧ t'.dout = P.fdec t.key y ∧ h'.seq = h.seq ∧
      (H.kindOf (P.fdec t.key y)[2] = none →
        h' = h ∧ r = .unrecognized (P.fdec t.key y)[2] (framePayload (P.fdec t.key y)))
end

