-- ==== Sys2Proof/Laws/Config.lean ====
section
/-! SUPPORT. The named properties of the function parameters (00_scope.md R6): all a proof may use about them. -/

namespace Sys2Proof

/-- `FrameRoundTrip` (R6). -/
@[simp] theorem Params.fdec_fenc (P : Params) (k : Bytes 16) (x : Bytes 20) : P.fdec k (P.fenc k x) = x :=
  (P.frame k).symm_apply_apply x

/-- The other direction, from `FrameBijection` (R6). -/
@[simp] theorem Params.fenc_fdec (P : Params) (k : Bytes 16) (y : Bytes 20) : P.fenc k (P.fdec k y) = y :=
  (P.frame k).apply_symm_apply y

/-- `FENC (k, ·)` is injective (R6 `FrameBijection`). -/
theorem Params.fenc_injective (P : Params) (k : Bytes 16) : Function.Injective (P.fenc k) := (P.frame k).injective

/-- `TFC_BASE mod 128 = 0` (R4). -/
theorem Config.tfcBase_mod : Config.tfcBase % 128 = 0 := Nat.mul_mod_right 128 Config.tfcBlock

end Sys2Proof
end

