-- ==== Sys2Proof/Laws/HostSide.lean ====
section
/-! SUPPORT. The byte-level lemmas of the host's frames. -/

namespace Sys2Proof.Machine

@[simp] theorem reversedAddress_getElem (a : Bytes 6) (i : Nat) (h : i < 6) : (reversedAddress a)[i] = a[5 - i] := by
  simp [reversedAddress]

@[simp] theorem frameAddress_getElem (f : Bytes 20) (i : Nat) (h : i < 6) : (frameAddress f)[i] = f[4 + i] := by
  simp [frameAddress]

@[simp] theorem framePayload_getElem (f : Bytes 20) (i : Nat) (h : i < 10) : (framePayload f)[i] = f[10 + i] := by
  simp [framePayload]

/-- Dispatch by cases (R96 to R98). -/
theorem dispatchFrame_cases (H : HostParams) (f : Bytes 20) :
    (∃ kind, H.kindOf f[2] = some kind ∧ H.addressAccepted (frameAddress f) = true ∧
      dispatchFrame H f = H.parse kind (framePayload f)) ∨
    ((H.kindOf f[2] = none ∨ H.addressAccepted (frameAddress f) = false) ∧
      dispatchFrame H f = .unrecognized f[2] (framePayload f)) := by
  unfold dispatchFrame
  split
  · split
    · exact .inl ⟨_, ‹_›, ‹_›, rfl⟩
    · exact .inr ⟨.inr (by simp_all), rfl⟩
  · exact .inr ⟨.inl ‹_›, rfl⟩

end Sys2Proof.Machine
end

