-- ==== Sys2Proof/Laws/Operands.lean ====
section
/-! SUPPORT. The operands of the commands, byte by byte. -/

namespace Sys2Proof.Machine

@[simp] theorem zeros_getElem (n i : Nat) (h : i < n) : (zeros n)[i] = 0x00 := by
  simp [zeros]

/-- The local nonce is the first half of the nonce block (R67). -/
theorem Tfc.nonceBlock_low (t : Tfc) (i : Nat) (h : i < 8) : t.nonceBlock[i]'(by omega) = t.nl[i] :=
  Vector.getElem_append_left h

/-- The remote nonce is the second half of the nonce block (R67). -/
theorem Tfc.nonceBlock_high (t : Tfc) (i : Nat) (h : i < 8) : t.nonceBlock[8 + i]'(by omega) = t.nr[i] := by
  have e : t.nonceBlock[8 + i]'(by omega) = t.nr[8 + i - 8]'(by omega) :=
    Vector.getElem_append_right (xs := t.nl) (ys := t.nr) (by omega) (by omega)
  simpa using e

@[simp] theorem Tfc.blockIn_getElem (t : Tfc) (i : Nat) (h : i < 16) : t.blockIn[i] = t.din[i] := by
  simp [Tfc.blockIn]

/-- The block stands in the first 16 bytes of the output (R82). -/
theorem blockOut_low (b : Bytes 16) (i : Nat) (h : i < 16) : (blockOut b)[i]'(by omega) = b[i] := by
  simp [blockOut, h]

/-- The output is zero beyond the block (R82). -/
theorem blockOut_high (b : Bytes 16) (i : Nat) (h : 16 ≤ i) (h' : i < 20) : (blockOut b)[i] = 0x00 := by
  simp [blockOut, Nat.not_lt.mpr h]

/-- One byte of the credential buffer (R64). -/
theorem Tfc.cred_getElem (P : Params) (t : Tfc) (i : Nat) (h : i < 16) :
    (t.cred P)[i] =
      if i < P.nameW.val then (if i < t.nameLen.toNat then t.name[i] else 0x00)
      else if i - P.nameW.val < t.passLen.toNat then t.pass[i - P.nameW.val]'(by omega) else 0x00 := by
  simp [Tfc.cred]

end Sys2Proof.Machine
end

