-- ==== Sys2Proof/Laws/State.lean ====
section
/-! SUPPORT. One lemma per field and update of the state, each true by unfolding the update once. -/

namespace Sys2Proof.Machine

/-! ### `Tfc.fail` -/

@[simp] theorem Tfc.fail_key (e : ErrorKind) (t : Tfc) : (t.fail e).key = t.key := rfl
@[simp] theorem Tfc.fail_keyValid (e : ErrorKind) (t : Tfc) : (t.fail e).keyValid = t.keyValid := rfl
@[simp] theorem Tfc.fail_done (e : ErrorKind) (t : Tfc) : (t.fail e).done = false := rfl
@[simp] theorem Tfc.fail_err (e : ErrorKind) (t : Tfc) : (t.fail e).err = true := rfl
@[simp] theorem Tfc.fail_errcode (e : ErrorKind) (t : Tfc) : (t.fail e).errcode = e.code := rfl
@[simp] theorem Tfc.fail_dlen (e : ErrorKind) (t : Tfc) : (t.fail e).dlen = t.dlen := rfl
@[simp] theorem Tfc.fail_olen (e : ErrorKind) (t : Tfc) : (t.fail e).olen = 0 := rfl
@[simp] theorem Tfc.fail_nameLen (e : ErrorKind) (t : Tfc) : (t.fail e).nameLen = t.nameLen := rfl
@[simp] theorem Tfc.fail_passLen (e : ErrorKind) (t : Tfc) : (t.fail e).passLen = t.passLen := rfl
@[simp] theorem Tfc.fail_nlLen (e : ErrorKind) (t : Tfc) : (t.fail e).nlLen = t.nlLen := rfl
@[simp] theorem Tfc.fail_nrLen (e : ErrorKind) (t : Tfc) : (t.fail e).nrLen = t.nrLen := rfl
@[simp] theorem Tfc.fail_name (e : ErrorKind) (t : Tfc) : (t.fail e).name = t.name := rfl
@[simp] theorem Tfc.fail_pass (e : ErrorKind) (t : Tfc) : (t.fail e).pass = t.pass := rfl
@[simp] theorem Tfc.fail_nl (e : ErrorKind) (t : Tfc) : (t.fail e).nl = t.nl := rfl
@[simp] theorem Tfc.fail_nr (e : ErrorKind) (t : Tfc) : (t.fail e).nr = t.nr := rfl
@[simp] theorem Tfc.fail_bkey (e : ErrorKind) (t : Tfc) : (t.fail e).bkey = t.bkey := rfl
@[simp] theorem Tfc.fail_din (e : ErrorKind) (t : Tfc) : (t.fail e).din = t.din := rfl
@[simp] theorem Tfc.fail_dout (e : ErrorKind) (t : Tfc) : (t.fail e).dout = zeros 20 := rfl

/-! ### `Tfc.succeed` -/

@[simp] theorem Tfc.succeed_key (t : Tfc) : (t.succeed).key = t.key := rfl
@[simp] theorem Tfc.succeed_keyValid (t : Tfc) : (t.succeed).keyValid = t.keyValid := rfl
@[simp] theorem Tfc.succeed_done (t : Tfc) : (t.succeed).done = true := rfl
@[simp] theorem Tfc.succeed_err (t : Tfc) : (t.succeed).err = false := rfl
@[simp] theorem Tfc.succeed_errcode (t : Tfc) : (t.succeed).errcode = 0x00 := rfl
@[simp] theorem Tfc.succeed_dlen (t : Tfc) : (t.succeed).dlen = t.dlen := rfl
@[simp] theorem Tfc.succeed_olen (t : Tfc) : (t.succeed).olen = t.olen := rfl
@[simp] theorem Tfc.succeed_nameLen (t : Tfc) : (t.succeed).nameLen = t.nameLen := rfl
@[simp] theorem Tfc.succeed_passLen (t : Tfc) : (t.succeed).passLen = t.passLen := rfl
@[simp] theorem Tfc.succeed_nlLen (t : Tfc) : (t.succeed).nlLen = t.nlLen := rfl
@[simp] theorem Tfc.succeed_nrLen (t : Tfc) : (t.succeed).nrLen = t.nrLen := rfl
@[simp] theorem Tfc.succeed_name (t : Tfc) : (t.succeed).name = t.name := rfl
@[simp] theorem Tfc.succeed_pass (t : Tfc) : (t.succeed).pass = t.pass := rfl
@[simp] theorem Tfc.succeed_nl (t : Tfc) : (t.succeed).nl = t.nl := rfl
@[simp] theorem Tfc.succeed_nr (t : Tfc) : (t.succeed).nr = t.nr := rfl
@[simp] theorem Tfc.succeed_bkey (t : Tfc) : (t.succeed).bkey = t.bkey := rfl
@[simp] theorem Tfc.succeed_din (t : Tfc) : (t.succeed).din = t.din := rfl
@[simp] theorem Tfc.succeed_dout (t : Tfc) : (t.succeed).dout = t.dout := rfl

/-! ### `Tfc.endSession` -/

@[simp] theorem Tfc.endSession_key (t : Tfc) : (t.endSession).key = zeros 16 := rfl
@[simp] theorem Tfc.endSession_keyValid (t : Tfc) : (t.endSession).keyValid = false := rfl
@[simp] theorem Tfc.endSession_done (t : Tfc) : (t.endSession).done = t.done := rfl
@[simp] theorem Tfc.endSession_err (t : Tfc) : (t.endSession).err = t.err := rfl
@[simp] theorem Tfc.endSession_errcode (t : Tfc) : (t.endSession).errcode = t.errcode := rfl
@[simp] theorem Tfc.endSession_dlen (t : Tfc) : (t.endSession).dlen = t.dlen := rfl
@[simp] theorem Tfc.endSession_olen (t : Tfc) : (t.endSession).olen = t.olen := rfl
@[simp] theorem Tfc.endSession_nameLen (t : Tfc) : (t.endSession).nameLen = t.nameLen := rfl
@[simp] theorem Tfc.endSession_passLen (t : Tfc) : (t.endSession).passLen = t.passLen := rfl
@[simp] theorem Tfc.endSession_nlLen (t : Tfc) : (t.endSession).nlLen = t.nlLen := rfl
@[simp] theorem Tfc.endSession_nrLen (t : Tfc) : (t.endSession).nrLen = t.nrLen := rfl
@[simp] theorem Tfc.endSession_name (t : Tfc) : (t.endSession).name = t.name := rfl
@[simp] theorem Tfc.endSession_pass (t : Tfc) : (t.endSession).pass = t.pass := rfl
@[simp] theorem Tfc.endSession_nl (t : Tfc) : (t.endSession).nl = t.nl := rfl
@[simp] theorem Tfc.endSession_nr (t : Tfc) : (t.endSession).nr = t.nr := rfl
@[simp] theorem Tfc.endSession_bkey (t : Tfc) : (t.endSession).bkey = t.bkey := rfl
@[simp] theorem Tfc.endSession_din (t : Tfc) : (t.endSession).din = t.din := rfl
@[simp] theorem Tfc.endSession_dout (t : Tfc) : (t.endSession).dout = t.dout := rfl

/-! ### `Tfc.zeroize` -/

@[simp] theorem Tfc.zeroize_key (t : Tfc) : (t.zeroize).key = zeros 16 := rfl
@[simp] theorem Tfc.zeroize_keyValid (t : Tfc) : (t.zeroize).keyValid = false := rfl
@[simp] theorem Tfc.zeroize_done (t : Tfc) : (t.zeroize).done = true := rfl
@[simp] theorem Tfc.zeroize_err (t : Tfc) : (t.zeroize).err = false := rfl
@[simp] theorem Tfc.zeroize_errcode (t : Tfc) : (t.zeroize).errcode = 0x00 := rfl
@[simp] theorem Tfc.zeroize_dlen (t : Tfc) : (t.zeroize).dlen = 0 := rfl
@[simp] theorem Tfc.zeroize_olen (t : Tfc) : (t.zeroize).olen = 0 := rfl
@[simp] theorem Tfc.zeroize_nameLen (t : Tfc) : (t.zeroize).nameLen = t.nameLen := rfl
@[simp] theorem Tfc.zeroize_passLen (t : Tfc) : (t.zeroize).passLen = t.passLen := rfl
@[simp] theorem Tfc.zeroize_nlLen (t : Tfc) : (t.zeroize).nlLen = 0 := rfl
@[simp] theorem Tfc.zeroize_nrLen (t : Tfc) : (t.zeroize).nrLen = 0 := rfl
@[simp] theorem Tfc.zeroize_name (t : Tfc) : (t.zeroize).name = t.name := rfl
@[simp] theorem Tfc.zeroize_pass (t : Tfc) : (t.zeroize).pass = t.pass := rfl
@[simp] theorem Tfc.zeroize_nl (t : Tfc) : (t.zeroize).nl = zeros 8 := rfl
@[simp] theorem Tfc.zeroize_nr (t : Tfc) : (t.zeroize).nr = zeros 8 := rfl
@[simp] theorem Tfc.zeroize_bkey (t : Tfc) : (t.zeroize).bkey = zeros 16 := rfl
@[simp] theorem Tfc.zeroize_din (t : Tfc) : (t.zeroize).din = zeros 20 := rfl
@[simp] theorem Tfc.zeroize_dout (t : Tfc) : (t.zeroize).dout = zeros 20 := rfl

/-! ### The machine around the TFC -/

@[simp] theorem State.respond_tfc (t : Tfc) (r : Response) (s : State) : (s.respond t r).tfc = t := rfl
@[simp] theorem State.respond_rst (t : Tfc) (r : Response) (s : State) : (s.respond t r).rst = s.rst := rfl
@[simp] theorem State.respond_script (t : Tfc) (r : Response) (s : State) : (s.respond t r).script = s.script := rfl
@[simp] theorem State.respond_trace (t : Tfc) (r : Response) (s : State) : (s.respond t r).trace = s.trace ++ [r] := rfl

@[simp] theorem State.driveRst_tfc (level : Bool) (s : State) : (s.driveRst level).tfc = if level || s.rst then Tfc.reset else s.tfc := rfl
@[simp] theorem State.driveRst_rst (level : Bool) (s : State) : (s.driveRst level).rst = level := rfl
@[simp] theorem State.driveRst_script (level : Bool) (s : State) : (s.driveRst level).script = s.script := rfl
@[simp] theorem State.driveRst_trace (level : Bool) (s : State) : (s.driveRst level).trace = s.trace := rfl

@[simp] theorem State.advance_tfc (rest : List HostEvent) (s : State) : (s.advance rest).tfc = s.tfc := rfl
@[simp] theorem State.advance_rst (rest : List HostEvent) (s : State) : (s.advance rest).rst = s.rst := rfl
@[simp] theorem State.advance_script (rest : List HostEvent) (s : State) : (s.advance rest).script = rest := rfl
@[simp] theorem State.advance_trace (rest : List HostEvent) (s : State) : (s.advance rest).trace = s.trace := rfl

@[simp] theorem State.rejectAccess_tfc (off : BitVec 7) (s : State) : (s.rejectAccess off).tfc = s.tfc := rfl
@[simp] theorem State.rejectAccess_rst (off : BitVec 7) (s : State) : (s.rejectAccess off).rst = s.rst := rfl
@[simp] theorem State.rejectAccess_script (off : BitVec 7) (s : State) : (s.rejectAccess off).script = s.script := rfl
@[simp] theorem State.rejectAccess_trace (off : BitVec 7) (s : State) : (s.rejectAccess off).trace = s.trace ++ [.busError off] := rfl

@[simp] theorem State.placeAccess_tfc (b : BusAccess) (s : State) : (s.placeAccess b).tfc = s.tfc := rfl
@[simp] theorem State.placeAccess_rst (b : BusAccess) (s : State) : (s.placeAccess b).rst = false := rfl
@[simp] theorem State.placeAccess_script (b : BusAccess) (s : State) : (s.placeAccess b).script = .access b :: s.script := rfl
@[simp] theorem State.placeAccess_trace (b : BusAccess) (s : State) : (s.placeAccess b).trace = s.trace := rfl

end Sys2Proof.Machine
end

