-- ==== Sys2Proof/Laws/Ops.lean ====
section
/-! SUPPORT. For each shared operation, one lemma that says everything it can do; proofs cite these and do not unfold the
operation again. -/

namespace Sys2Proof.Machine

/-- A location other than a reserved one is where its offset says. -/
theorem locate_offset (l : Loc) (h : ∀ off, l ≠ .reserved off) : locate l.offset = l := by
  cases l with
  | reserved off => exact absurd rfl (h off)
  | name i => revert i; decide
  | pass i => revert i; decide
  | nl i => revert i; decide
  | nr i => revert i; decide
  | bkey i => revert i; decide
  | din i => revert i; decide
  | dout i => revert i; decide
  | _ => decide

/-- A location is reserved exactly at the 15 offsets of R36. -/
theorem locate_reserved (off : BitVec 7) :
    (locate off).mode = .noAccess ↔
      (0x09 ≤ off.toNat ∧ off.toNat ≤ 0x0F) ∨ (0x64 ≤ off.toNat ∧ off.toNat ≤ 0x67) ∨ 0x7C ≤ off.toNat := by
  revert off; decide

/-- The register map by cases (R36): what stands at an offset, and which offsets it stands at. -/
theorem locate_cases (off : BitVec 7) :
    (off.toNat = 0x00 ∧ locate off = .cmd) ∨ (off.toNat = 0x01 ∧ locate off = .status) ∨
    (off.toNat = 0x02 ∧ locate off = .errcode) ∨ (off.toNat = 0x03 ∧ locate off = .dlen) ∨
    (off.toNat = 0x04 ∧ locate off = .olen) ∨ (off.toNat = 0x05 ∧ locate off = .nameLen) ∨
    (off.toNat = 0x06 ∧ locate off = .passLen) ∨ (off.toNat = 0x07 ∧ locate off = .nlLen) ∨
    (off.toNat = 0x08 ∧ locate off = .nrLen) ∨
    (∃ i : Fin 16, off.toNat = 0x10 + i.val ∧ locate off = .name i) ∨
    (∃ i : Fin 16, off.toNat = 0x20 + i.val ∧ locate off = .pass i) ∨
    (∃ i : Fin 8, off.toNat = 0x30 + i.val ∧ locate off = .nl i) ∨
    (∃ i : Fin 8, off.toNat = 0x38 + i.val ∧ locate off = .nr i) ∨
    (∃ i : Fin 16, off.toNat = 0x40 + i.val ∧ locate off = .bkey i) ∨
    (∃ i : Fin 20, off.toNat = 0x50 + i.val ∧ locate off = .din i) ∨
    (∃ i : Fin 20, off.toNat = 0x68 + i.val ∧ locate off = .dout i) ∨
    (((0x09 ≤ off.toNat ∧ off.toNat ≤ 0x0F) ∨ (0x64 ≤ off.toNat ∧ off.toNat ≤ 0x67) ∨ 0x7C ≤ off.toNat) ∧
      locate off = .reserved off) := by
  revert off; decide

/-- `decodeCommand` by cases: the six codes, or no command from 0x06 on. -/
theorem decodeCommand_cases (c : Byte) :
    (c = 0x00 ∧ decodeCommand c = some .nop) ∨ (c = 0x01 ∧ decodeCommand c = some .derive) ∨
    (c = 0x02 ∧ decodeCommand c = some .enc) ∨ (c = 0x03 ∧ decodeCommand c = some .dec) ∨
    (c = 0x04 ∧ decodeCommand c = some .blkenc) ∨ (c = 0x05 ∧ decodeCommand c = some .zeroize) ∨
    (0x06 ≤ c.toNat ∧ decodeCommand c = none) := by
  revert c; decide

/-- `run(c)` by cases (R56). -/
theorem Tfc.runCommand_cases (P : Params) (c : Byte) (t : Tfc) :
    (c = 0x00 ∧ t.runCommand P c = t.nop) ∨ (c = 0x01 ∧ t.runCommand P c = t.derive P) ∨
    (c = 0x02 ∧ t.runCommand P c = t.enc P) ∨ (c = 0x03 ∧ t.runCommand P c = t.dec P) ∨
    (c = 0x04 ∧ t.runCommand P c = t.blkenc P) ∨ (c = 0x05 ∧ t.runCommand P c = t.zeroize) ∨
    (0x06 ≤ c.toNat ∧ t.runCommand P c = t.fail .illegalCommand) := by
  rcases decodeCommand_cases c with ⟨rfl, _⟩ | ⟨rfl, _⟩ | ⟨rfl, _⟩ | ⟨rfl, _⟩ | ⟨rfl, _⟩ | ⟨rfl, _⟩ | ⟨h, _⟩
  · exact .inl ⟨rfl, rfl⟩
  · exact .inr (.inl ⟨rfl, rfl⟩)
  · exact .inr (.inr (.inl ⟨rfl, rfl⟩))
  · exact .inr (.inr (.inr (.inl ⟨rfl, rfl⟩)))
  · exact .inr (.inr (.inr (.inr (.inl ⟨rfl, rfl⟩))))
  · exact .inr (.inr (.inr (.inr (.inr (.inl ⟨rfl, rfl⟩)))))
  · refine .inr (.inr (.inr (.inr (.inr (.inr ⟨h, ?_⟩)))))
    unfold Tfc.runCommand
    split <;> first | rfl | omega

/-- `DERIVE` by cases (R65, R66). -/
theorem Tfc.derive_cases (P : Params) (t : Tfc) :
    ((P.nameW.val < t.nameLen.toNat ∨ P.passW < t.passLen.toNat) ∧ t.derive P = t.fail .invalidCredentials) ∨
    (t.nameLen.toNat ≤ P.nameW.val ∧ t.passLen.toNat ≤ P.passW ∧ (t.nlLen.toNat ≠ 8 ∨ t.nrLen.toNat ≠ 8) ∧
      t.derive P = t.fail .pairingNonceError) ∨
    (t.nameLen.toNat ≤ P.nameW.val ∧ t.passLen.toNat ≤ P.passW ∧ t.nlLen.toNat = 8 ∧ t.nrLen.toNat = 8 ∧
      t.derive P =
        Tfc.succeed
          { t with key := P.p16 (t.cred P) t.nonceBlock, keyValid := true, dout := zeros 20, olen := 0 }) := by
  unfold Tfc.derive
  split
  · exact .inl ⟨‹_›, rfl⟩
  · split
    · exact .inr (.inl ⟨by omega, by omega, ‹_›, rfl⟩)
    · exact .inr (.inr ⟨by omega, by omega, by omega, by omega, rfl⟩)

/-- `ENC` and `DEC` by cases (R73, R74). -/
theorem Tfc.codec_cases (f : Bytes 16 → Bytes 20 → Bytes 20) (t : Tfc) :
    (t.keyValid = false ∧ t.codec f = t.fail .noActiveSession) ∨
    (t.keyValid = true ∧ t.dlen.toNat ≠ 20 ∧ t.codec f = t.fail .invalidFrameLength) ∨
    (t.keyValid = true ∧ t.dlen.toNat = 20 ∧ t.codec f = Tfc.succeed { t with dout := f t.key t.din, olen := 20 }) := by
  unfold Tfc.codec
  split
  · exact .inl ⟨‹_›, rfl⟩
  · split
    · exact .inr (.inl ⟨by simp_all, ‹_›, rfl⟩)
    · exact .inr (.inr ⟨by simp_all, by omega, rfl⟩)

/-- `BLKENC` by cases (R82). -/
theorem Tfc.blkenc_cases (P : Params) (t : Tfc) :
    (t.dlen.toNat ≠ 16 ∧ t.blkenc P = t.fail .invalidFrameLength) ∨
    (t.dlen.toNat = 16 ∧ t.blkenc P = Tfc.succeed { t with dout := blockOut (P.p16 t.bkey t.blockIn), olen := 16 }) := by
  unfold Tfc.blkenc
  split
  · exact .inl ⟨‹_›, rfl⟩
  · exact .inr ⟨by omega, rfl⟩

/-- A byte write by cases: a permitted write stores and is acknowledged, any other is a bus error and changes nothing (R37, R39). -/
theorem Tfc.memWrite_cases (P : Params) (off : BitVec 7) (v : Byte) (t : Tfc) :
    ((locate off).mode.writable = true ∧ t.memWrite P off v = (t.store P (locate off) v, .ack)) ∨
    ((locate off).mode.writable = false ∧ t.memWrite P off v = (t, .busError off)) := by
  unfold Tfc.memWrite
  split
  · exact .inl ⟨‹_›, rfl⟩
  · exact .inr ⟨by simp_all, rfl⟩

/-- A byte read by cases (R37, R38). -/
theorem Tfc.memRead_cases (off : BitVec 7) (t : Tfc) :
    ((locate off).mode.readable = true ∧ t.memRead off = .data (t.contents (locate off))) ∨
    ((locate off).mode.readable = false ∧ t.memRead off = .busError off) := by
  unfold Tfc.memRead
  split
  · exact .inl ⟨‹_›, rfl⟩
  · exact .inr ⟨by simp_all, rfl⟩

/-- Every instruction performs its bus access on the TFC: `exec` gives the next state of R32's step on the instruction's
encoding, whether the instruction is well formed or not. -/
theorem exec_eq_access (i : Instr) (s : State) :
    exec i s =
      .next (s.respond (s.tfc.access Config.params (encode i)).1 (s.tfc.access Config.params (encode i)).2) := by
  cases i <;> rfl

/-- `decode` by cases: a byte access decodes to an instruction that performs it, a wide access is rejected (R40). -/
theorem decode_cases (b : BusAccess) :
    (b.extra = 0 ∧ ∃ i, decode b = .ok i ∧ encode i = b) ∨ (0 < b.extra ∧ decode b = .error .wideAccess) := by
  rcases b with ⟨off, extra⟩ | ⟨off, extra, v⟩
  · rcases Nat.eq_zero_or_pos extra with rfl | h
    · exact .inl ⟨rfl, _, rfl, rfl⟩
    · exact .inr ⟨h, by simp [decode, Nat.ne_of_gt h]⟩
  · rcases Nat.eq_zero_or_pos extra with rfl | h
    · refine .inl ⟨rfl, ?_⟩
      by_cases ho : off.toNat = 0x00
      · obtain rfl : off = 0x00 := BitVec.eq_of_toNat_eq ho
        rcases decodeCommand_cases v with ⟨rfl, h⟩ | ⟨rfl, h⟩ | ⟨rfl, h⟩ | ⟨rfl, h⟩ | ⟨rfl, h⟩ | ⟨rfl, h⟩ | ⟨_, h⟩ <;>
          exact ⟨_, by simp only [decode, h, ho, ↓reduceIte, Option.getD]; rfl, rfl⟩
      · exact ⟨.wr8 off v, by simp [decode, ho], rfl⟩
    · exact .inr ⟨h, by simp [decode, Nat.ne_of_gt h]⟩

/-- A wide access on the TFC (R40). -/
theorem Tfc.access_wide (P : Params) (b : BusAccess) (t : Tfc) (h : 0 < b.extra) : t.access P b = (t, .busError b.off) := by
  rcases b with ⟨off, extra⟩ | ⟨off, extra, v⟩
  · exact if_neg (Nat.ne_of_gt h)
  · exact if_neg (Nat.ne_of_gt h)

/-- Everything a step can do. -/
theorem step_cases (s : State) :
    (s.script = [] ∧ step s = .next s) ∨
    (∃ level rest, s.script = .rst level :: rest ∧ step s = .next ((s.advance rest).driveRst level)) ∨
    (∃ b rest, s.script = .access b :: rest ∧
      ((s.rst = true ∧ step s = .refused .accessDuringReset) ∨
        (s.rst = false ∧ step s =
          .next ((s.advance rest).respond (s.tfc.access Config.params b).1 (s.tfc.access Config.params b).2)))) := by
  match hs : s.script with
  | [] => exact .inl ⟨rfl, by simp [step, hs]⟩
  | .rst level :: rest => exact .inr (.inl ⟨level, rest, rfl, by simp [step, hs]⟩)
  | .access b :: rest =>
    refine .inr (.inr ⟨b, rest, rfl, ?_⟩)
    cases hr : s.rst
    · refine .inr ⟨rfl, ?_⟩
      rcases decode_cases b with ⟨_, i, hd, he⟩ | ⟨hw, hd⟩
      · simp only [step, hs, hr, hd, exec_eq_access, he]; rfl
      · simp only [step, hs, hr, hd, Tfc.access_wide _ _ _ hw]; rfl
    · exact .inl ⟨rfl, by simp [step, hs, hr]⟩

end Sys2Proof.Machine
end

