-- ==== Sys2Proof/Laws/PerInstr.lean ====
section
/-! SUPPORT. The per-instruction families of LAWS.json, one lemma per constructor of `Instr`. -/

namespace Sys2Proof.Laws.ByteAccess

/-- Every instruction is one byte-wide bus access (R40, R53, R60), and only `RD8` is a read. -/
def Statement (i : Instr) : Prop :=
  (encode i).extra = 0 ∧ ((∃ off, encode i = .read off 0) ↔ ∃ off, i = .rd8 off)

theorem nop : Statement .nop := ⟨rfl, by simp [encode]⟩
theorem derive : Statement .derive := ⟨rfl, by simp [encode]⟩
theorem enc : Statement .enc := ⟨rfl, by simp [encode]⟩
theorem dec : Statement .dec := ⟨rfl, by simp [encode]⟩
theorem blkenc : Statement .blkenc := ⟨rfl, by simp [encode]⟩
theorem zeroize : Statement .zeroize := ⟨rfl, by simp [encode]⟩
theorem rd8 (off : BitVec 7) : Statement (.rd8 off) := ⟨rfl, by simp [encode]⟩
theorem wr8 (off : BitVec 7) (v : Byte) : Statement (.wr8 off v) := ⟨rfl, by simp [encode]⟩

end Sys2Proof.Laws.ByteAccess
end

