-- ==== Sys2Proof/Laws/Run.lean ====
section
/-! SUPPORT. Runs of several steps, and the shape of a write to `CMD`. -/

namespace Sys2Proof.Machine

@[simp] theorem core_run_zero (s : State) : core.run 0 s = .next s := rfl

/-- A run whose first step answers a next state goes on from it. -/
theorem core_run_next {s t : State} (n : Nat) (h : step s = .next t) : core.run (n + 1) s = core.run n t := by
  have e : core.step s = .next t := h
  simp only [Host.Core.run, e]

/-- A run whose first step is refused is refused. -/
theorem core_run_refused {s : State} {r : Refusal} (n : Nat) (h : step s = .refused r) : core.run (n + 1) s = .refused r := by
  have e : core.step s = .refused r := h
  simp only [Host.Core.run, e]

/-- Every write to `CMD` runs the command of the byte written and is acknowledged (R39, R56). -/
theorem exec_commandWrite (i : Instr) (s : State) (h : isCommandWrite i = true) :
    ∃ c, encode i = .write 0x00 0 c ∧ exec i s = .next (s.respond (s.tfc.runCommand Config.params c) .ack) := by
  cases i with
  | rd8 off => cases h
  | wr8 off v =>
    obtain rfl : off = 0x00 := by simpa [isCommandWrite] using h
    exact ⟨v, rfl, rfl⟩
  | _ => exact ⟨_, rfl, rfl⟩

/-- A script in two parts is the second part played after the first. -/
theorem Tfc.play_append (P : Params) (as bs : List BusAccess) (t : Tfc) :
    (t.play P (as ++ bs)).1 = ((t.play P as).1.play P bs).1 := by
  induction as generalizing t with
  | nil => rfl
  | cons a as ih => simp [Tfc.play, ih]

/-- `READ DOUT` returns `DOUT` (R36, R61). -/
@[simp] theorem Tfc.readDout_eq (t : Tfc) : t.readDout = t.dout := by
  apply Vector.ext
  intro i hi
  have hl : locate (BitVec.ofNat 7 (0x68 + i)) = .dout ⟨i, hi⟩ := locate_offset (.dout ⟨i, hi⟩) (by simp)
  simp [Tfc.readDout, Tfc.memRead, hl, Loc.mode, Mode.readable, Response.byte, Tfc.contents]

end Sys2Proof.Machine
end

