-- ==== Sys2Proof/Tests/Slice0.lean ====
section
/-! SUPPORT. Small tests, each from a vector or a sentence of the spec, and for every statement with hypotheses a state and
operands that meet them together. -/

namespace Sys2Proof.Tests

open Sys2Proof Sys2Proof.Machine

/-! ### The TOY instantiation (95_test_vectors.md section 0; for tests only, D24) -/

/-- `P16_toy`. -/
def toyP16 (k b : Bytes 16) : Bytes 16 :=
  Vector.ofFn fun i : Fin 16 => (b[i] ^^^ k[15 - i.val]) + BitVec.ofNat 8 i.val

/-- `FENC_toy` and `FDEC_toy`, inverse to each other as the spec's check of the law says. -/
def toyFrame (k : Bytes 16) : Equiv.Perm (Bytes 20) where
  toFun x := Vector.ofFn fun i : Fin 20 => (x[i] ^^^ k[i.val % 16]) + BitVec.ofNat 8 i.val
  invFun y := Vector.ofFn fun i : Fin 20 => (y[i] - BitVec.ofNat 8 i.val) ^^^ k[i.val % 16]
  left_inv x := by
    apply Vector.ext
    intro i hi
    simp
  right_inv y := by
    apply Vector.ext
    intro i hi
    simp

/-- The TOY parameters with the default `NAME_W = 8`. -/
def toy : Params := ⟨8, toyP16, toyFrame⟩

/-- `KT1` of 95_test_vectors.md. -/
def kt1 : Bytes 16 :=
  #v[0x34, 0x34, 0x34, 0x34, 0x77, 0x78, 0x67, 0x77, 0x07, 0xD7, 0xA4, 0xA7, 0xA2, 0x96, 0xA8, 0xCA]

/-- `FR1` of 95_test_vectors.md. -/
def fr1 : Bytes 20 :=
  #v[0x01, 0x00, 0xE8, 0x00, 0xFF, 0xEE, 0xDD, 0xCC, 0xBB, 0xAA, 0, 0, 0, 0, 0, 0, 0, 0, 0, 0]

/-- `CT1` of 95_test_vectors.md. -/
def ct1 : Bytes 20 :=
  #v[0x35, 0x35, 0xDE, 0x37, 0x8C, 0x9B, 0xC0, 0xC2, 0xC4, 0x86, 0xAE, 0xB2, 0xAE, 0xA3, 0xB6, 0xD9, 0x44, 0x45, 0x46, 0x47]

/-- The inputs of V-D1 loaded after reset. -/
def vd1 : Tfc :=
  { Tfc.reset with
    name := #v[0x44, 0x65, 0x76, 0x69, 0x63, 0x65, 0x31, 0, 0, 0, 0, 0, 0, 0, 0, 0], nameLen := 7
    pass := #v[0x70, 0x61, 0x73, 0x73, 0x31, 0x32, 0x33, 0x34, 0, 0, 0, 0, 0, 0, 0, 0], passLen := 8
    nr := Vector.replicate 8 0xFF, nlLen := 8, nrLen := 8 }

/-- A session under `KT1` with `FR1` in `DIN`. -/
def session : Tfc := { Tfc.reset with key := kt1, keyValid := true, din := fr1, dlen := 20 }

/-- A machine around a TFC, with one host event to come. -/
def withEvent (t : Tfc) (e : HostEvent) : State := { State.reset with tfc := t, script := [e] }

/-! ### Well-formedness and decoding -/

/-- The one check refuses a `WR8` that is a command, and nothing else (row `WR8` of the table). -/
theorem test_wellFormed :
    (Instr.wr8 0x00 0x05).wellFormed = false ∧ (Instr.wr8 0x00 0x06).wellFormed = true ∧
    (Instr.wr8 0x03 0x05).wellFormed = true ∧ (Instr.rd8 0x00).wellFormed = true := by decide

/-- R55: the command codes, bit by bit. -/
theorem test_decode_commands :
    decodeCommand 0b00000000#8 = some .nop ∧ decodeCommand 0b00000001#8 = some .derive ∧
    decodeCommand 0b00000010#8 = some .enc ∧ decodeCommand 0b00000011#8 = some .dec ∧
    decodeCommand 0b00000100#8 = some .blkenc ∧ decodeCommand 0b00000101#8 = some .zeroize ∧
    decodeCommand 0b00000110#8 = none ∧ decodeCommand 0xE8 = none := by decide

/-- The triples of program P1 and P2: (W,00,01), (W,03,14), (R,01), (R,20), (W,00,77). -/
theorem test_decode_accesses :
    (decode (.write 0x00 0 0x01)).toOption = some .derive ∧ (decode (.write 0x03 0 0x14)).toOption = some (.wr8 0x03 0x14) ∧
    (decode (.read 0x01 0)).toOption = some (.rd8 0x01) ∧ (decode (.read 0x20 0)).toOption = some (.rd8 0x20) ∧
    (decode (.write 0x00 0 0x77)).toOption = some (.wr8 0x00 0x77) := by decide

/-- R40 and V-M10: a wide access is no instruction. -/
theorem test_decode_wide : (decode (.read 0x02 1)).toOption = none ∧ (decode (.write 0x00 3 0x01)).toOption = none := by
  decide

/-- The table's words: the six CMD8 rows, the row `RD8`, and a word no row matches (assumption 14). -/
theorem test_table_words :
    (List.map (decodeTableWord 8) [0, 1, 2, 3, 4, 5, 0x7F, 0x80]) =
      [some .nop, some .derive, some .enc, some .dec, some .blkenc, some .zeroize, some (.rd8 0x7F), none] := by decide

/-- The very next step after placing a table word runs it: `NOP` sets `DONE`. -/
theorem test_withFetchWord_runs :
    (match step (State.reset.withFetchWord 8 0x00) with
      | .next t => t.tfc.done
      | _ => false) = true := by decide

/-- R36: 15 reserved locations of 128. -/
theorem test_reserved_count :
    ((List.range 128).filter fun o => (locate (BitVec.ofNat 7 o)).mode == .noAccess).length = 15 := by decide

/-! ### The commands -/

/-- V-D1 under TOY. -/
theorem test_derive_key : (vd1.derive toy).key = kt1 ∧ (vd1.derive toy).status = 0x03 := by decide

/-- V-D10: credentials before nonces. -/
theorem test_derive_priority :
    (Tfc.derive toy { vd1 with nameLen := 255, nlLen := 0 }).errcode = 0x01 ∧
    (Tfc.derive toy { vd1 with nrLen := 9 }).errcode = 0x02 := by decide

/-- R65: the credential buffer of the worked example. -/
theorem test_cred :
    vd1.cred toy =
      #v[0x44, 0x65, 0x76, 0x69, 0x63, 0x65, 0x31, 0x00, 0x70, 0x61, 0x73, 0x73, 0x31, 0x32, 0x33, 0x34] := by decide

/-- V-E1 under TOY. -/
theorem test_enc : (session.enc toy).dout = ct1 ∧ (session.enc toy).olen = 20 ∧ (session.enc toy).status = 0x03 := by
  decide

/-- V-E10: no session before wrong length; V-E12: a failure clears the output. -/
theorem test_enc_fails :
    (Tfc.reset.enc toy).errcode = 0x05 ∧
    (Tfc.enc toy { session with dout := ct1, olen := 20, dlen := 5 }).dout = zeros 20 := by decide

/-- V-E2 under TOY. -/
theorem test_dec : (Tfc.dec toy { session with din := ct1 }).dout = fr1 := by decide

/-- V-E6 under TOY: decrypting a cleartext succeeds, and `DEC` is not `ENC`. -/
theorem test_dec_cleartext :
    (session.dec toy).dout =
      #v[0x35, 0xCB, 0xD2, 0xC9, 0x8C, 0x91, 0xB0, 0xB2, 0xB4, 0x76, 0x52, 0x52, 0x56, 0x65, 0x5A, 0x3B, 0xC4, 0xDB, 0xDA, 0xD9] ∧
    (session.dec toy).err = false := by decide

/-- V-B2 and V-B5 under TOY: `BLKENC` of the credential buffer and the nonce block, with bytes 16..19 of `DIN` ignored. -/
theorem test_blkenc :
    (Tfc.blkenc toy
      { Tfc.reset with
        bkey := #v[0x44, 0x65, 0x76, 0x69, 0x63, 0x65, 0x31, 0x00, 0x70, 0x61, 0x73, 0x73, 0x31, 0x32, 0x33, 0x34]
        din := #v[0, 0, 0, 0, 0, 0, 0, 0, 0xFF, 0xFF, 0xFF, 0xFF, 0xFF, 0xFF, 0xFF, 0xFF, 0xDE, 0xAD, 0xBE, 0xEF]
        dlen := 16 }).dout.toList = kt1.toList ++ [0, 0, 0, 0] := by decide

/-- V-B6: a frame's length is not a block's. -/
theorem test_blkenc_length : (Tfc.blkenc toy { Tfc.reset with dlen := 20 }).errcode = 0x03 := by decide

/-- V-C4: what `ZEROIZE` clears and keeps. -/
theorem test_zeroize :
    (Tfc.zeroize { vd1 with key := kt1, keyValid := true, dout := ct1, olen := 20 }).status = 0x02 ∧
    (Tfc.zeroize { vd1 with key := kt1, keyValid := true, dout := ct1, olen := 20 }).nameLen = 7 ∧
    (Tfc.zeroize { vd1 with key := kt1, keyValid := true, dout := ct1, olen := 20 }).nr = zeros 8 := by decide

/-- V-C3: `NOP` keeps a result; the worked example of R86: it clears the error. -/
theorem test_nop :
    (Tfc.nop { session with dout := ct1, olen := 20 }).dout = ct1 ∧ ((Tfc.reset.enc toy).nop).status = 0x02 := by decide

/-! ### The host's byte read and byte write -/

/-- V-M5, V-M6, V-M9: reads that the map does not permit; V-M14: the last byte of `DOUT`. -/
theorem test_rd8 :
    List.map (fun o => Tfc.memRead o { session with dout := fr1.set 19 0x7E }) [0x10, 0x00, 0x09, 0x64, 0x7B, 0x01, 0x4F] =
      [.busError 0x10, .busError 0x00, .busError 0x09, .busError 0x64, .data 0x7E, .data 0x01, .busError 0x4F] := by decide

/-- V-M7, V-M8: writes that the map does not permit change nothing; V-M4: the last byte of `DIN`. -/
theorem test_wr8 :
    session.memWrite toy 0x68 0x01 = (session, .busError 0x68) ∧ session.memWrite toy 0x01 0xFF = (session, .busError 0x01) ∧
    (session.memWrite toy 0x63 0x7E).1.din[19] = 0x7E := by decide

/-- V-D13: writing the same value ends the session; V-D14: writing a nonce does not. -/
theorem test_wr8_credential :
    (Tfc.memWrite toy 0x06 0x00 { session with done := true }).1.status = 0x02 ∧
    (session.memWrite toy 0x06 0x00).1.key = zeros 16 ∧ (session.memWrite toy 0x30 0x99).1.keyValid = true := by decide

/-- V-C8, V-C10: an illegal command is acknowledged, fails and keeps the session. -/
theorem test_wr8_illegal :
    (session.memWrite toy 0x00 0x42).1.status = 0x05 ∧ (session.memWrite toy 0x00 0x06).1.errcode = 0x06 ∧
    (session.memWrite toy 0x00 0x42).2 = .ack := by decide

/-- V-M10: a 16-bit read ends in a bus error, and the script fault is recorded. -/
theorem test_wide_access :
    (match step (withEvent session (.access (.read 0x02 1))) with
      | .next t => t.trace == [.busError 0x02] && t.tfc == session && t.scriptFault
      | _ => false) = true := by decide

/-- R125: an access while `RST` is asserted is refused, and releasing it leaves the reset state. -/
theorem test_reset_line :
    (match step { withEvent session (.access (.read 0x01 0)) with rst := true } with
      | .refused r => r == .accessDuringReset
      | _ => false) = true ∧
    (match step { withEvent session (.rst false) with rst := true } with
      | .next t => t.tfc == Tfc.reset && !t.rst
      | _ => false) = true := by decide

/-! ### The host software -/

/-- Host parameters at the spec's defaults (R4), with nothing registered. -/
def plainHost : HostParams :=
  ⟨.le, 0x00, fun _ => none, fun _ => true, fun _ => (0x00, []), fun _ => ⟨0, 0, 0, 0, 0, 0, 0⟩, fun _ => ⟨1, rfl⟩,
    fun _ => ⟨[], [], []⟩, fun _ => ∅, fun _ => ⟨⟨⟨1, rfl⟩, true, []⟩, []⟩⟩

/-- The same host with 0x01 registered as the address report. -/
def addressHost : HostParams := { plainHost with registry := fun c => if c = 0x01 then some .address else none }

/-- The address of the source's scenario, "AA:BB:CC:DD:EE:FF". -/
def plainAddr : Bytes 6 := #v[0xAA, 0xBB, 0xCC, 0xDD, 0xEE, 0xFF]

/-- X7: the cleartext frame of the time query; V-E14: the sequence field at 65535; X5: a full payload. -/
theorem test_layoutFrame :
    layoutFrame plainHost 1 0xE8 (reversedAddress plainAddr) [] = fr1 ∧
    (layoutFrame plainHost 65535 0xE8 (reversedAddress plainAddr) []).toList.take 3 = [0xFF, 0xFF, 0xE8] ∧
    (layoutFrame plainHost 2 0xE8 (reversedAddress plainAddr) [1, 2, 3, 4, 5, 6, 7, 8, 9, 10]).toList =
      [0x02, 0x00, 0xE8, 0x00, 0xFF, 0xEE, 0xDD, 0xCC, 0xBB, 0xAA, 1, 2, 3, 4, 5, 6, 7, 8, 9, 10] := by decide

/-- X5: an 11-byte payload fails before the TFC is touched. -/
theorem test_build_too_large :
    (match build toy plainHost (HostState.start plainAddr) session 0xE8 (List.replicate 11 0) (reversedAddress plainAddr) with
      | (h, t, .error e) => h == HostState.start plainAddr && t == session && e == 0x04
      | (_, _, .ok _) => false) = true := by decide

/-- X8: an unrecognized command byte gives `Unrecognized`, no error. -/
theorem test_dispatch_unrecognized :
    dispatchFrame plainHost (fr1.set 2 0x00) = .unrecognized 0x00 (zeros 10) := by decide

/-- R95: the ends of the two ranges. -/
theorem test_meshAddress_ranges :
    (isDeviceAddress 0 = false ∧ isDeviceAddress 1 = true ∧ isDeviceAddress 254 = true ∧ isDeviceAddress 255 = false) ∧
    (isGroupAddress 0x7FFF = false ∧ isGroupAddress 0x8000 = true ∧ isGroupAddress 0x80FF = true ∧
      isGroupAddress 0x8100 = false) := by decide

/-- R97, R99: an address report is routed to its parser, and its address is cached. -/
theorem test_address_report_cached :
    dispatchFrame addressHost (fr1.set 2 0x01) = .address ⟨1, rfl⟩ ∧
    ((HostState.start plainAddr).feedback (dispatchFrame addressHost (fr1.set 2 0x01))).mesh = some ⟨1, rfl⟩ := by decide

/-- P1, lines 1 to 9: 36 accesses, the last one the command. -/
theorem test_deriveScript :
    (deriveScript (List.replicate 7 0) (List.replicate 8 0) (List.replicate 8 0) (List.replicate 8 0)).length = 36 ∧
    (deriveScript [0x44] [] [] []).take 2 = [.write 0x10 0 0x44, .write 0x05 0 0x01] := by decide

/-! ### The hypotheses of the statements can be met -/

theorem witness_CommandCodesDecode : 0x06 ≤ (0x06 : Byte).toNat ∧ 0x06 ≤ (0xFF : Byte).toNat := by decide

theorem witness_DecodeOfEncode : (Instr.wr8 0x00 0x06).wellFormed = true ∧ (Instr.wr8 0x7F 0x00).wellFormed = true := by decide

theorem witness_EncodeOfDecode :
    (decode (.write 0x00 0 0xFF)).toOption = some (.wr8 0x00 0xFF) ∧ (decode (.write 0x00 0 0x05)).toOption = some .zeroize := by
  decide

theorem witness_WindowAddresses :
    Config.tfcBase + 0x7F < Config.tfcBase + 0x80 ∧ (∃ addr, addr < Config.tfcBase ∨ Config.tfcBase + 0x7F < addr) :=
  ⟨by omega, Config.tfcBase + 0x80, by omega⟩

theorem witness_StepRunsDecodedInstruction :
    ∃ (s : State) (b : BusAccess) (rest : List HostEvent) (i : Instr),
      s.rst = false ∧ s.script = .access b :: rest ∧ decode b = .ok i ∧ i.wellFormed = true :=
  ⟨withEvent session (.access (.write 0x00 0 0x02)), _, _, .enc, rfl, rfl, rfl, rfl⟩

theorem witness_WideAccessBusError :
    ∃ (s : State) (b : BusAccess) (rest : List HostEvent), s.rst = false ∧ s.script = .access b :: rest ∧ 0 < b.extra :=
  ⟨withEvent session (.access (.read 0x02 1)), _, _, rfl, rfl, by decide⟩

theorem witness_IdleStepKeepsState : State.reset.script = [] := rfl

theorem witness_ResetGivesResetValues :
    (∃ (s : State) (level : Bool) (rest : List HostEvent), s.script = .rst level :: rest ∧ (level = true ∨ s.rst = true)) ∧
    (∃ (s : State) (rest : List HostEvent), s.script = .rst false :: rest ∧ s.rst = true) :=
  ⟨⟨withEvent session (.rst true), true, [], rfl, .inl rfl⟩, { withEvent session (.rst false) with rst := true }, [], rfl, rfl⟩

theorem witness_AccessDuringResetRefused :
    ∃ (s : State) (b : BusAccess) (rest : List HostEvent), s.rst = true ∧ s.script = .access b :: rest :=
  ⟨{ withEvent Tfc.reset (.access (.read 0x01 0)) with rst := true }, _, _, rfl, rfl⟩

/-- Each branch of `DERIVE`'s statement, whatever `NAME_W` is: over-long, wrong nonce length, success. -/
theorem witness_DeriveResult :
    (∀ w : Fin 17, w.val < (255 : Byte).toNat) ∧ (∀ w : Fin 17, ¬w.val < (0 : Byte).toNat) ∧
    (7 : Byte) ≠ 8 ∧ ¬((8 : Byte) ≠ 8) := by decide

theorem witness_EncResult_DecResult :
    Tfc.reset.keyValid = false ∧ session.keyValid = true ∧ (19 : Byte) ≠ 20 ∧ session.dlen = 20 := by decide

theorem witness_DecResult_cleartext :
    ∃ (t : Tfc) (x : Bytes 20), t.keyValid = true ∧ t.dlen = 20 ∧ t.din = Config.params.fenc t.key x :=
  ⟨{ session with din := Config.params.fenc kt1 fr1 }, fr1, rfl, rfl, rfl⟩

theorem witness_DecSucceedsOnEveryCiphertext : session.keyValid = true ∧ session.dlen = 20 := by decide

theorem witness_BlkencResult :
    Tfc.reset.dlen ≠ 16 ∧ (∃ t : Tfc, t.dlen = 16 ∧ ∃ b : Bytes 16, ∀ i : Fin 16, b[i] = t.din[i.val]) :=
  ⟨by decide, { Tfc.reset with dlen := 16 }, rfl, zeros 16, by decide⟩

theorem witness_WriteResult :
    (0x00 : BitVec 7).toNat = 0x00 ∧ decodeCommand 0x05 = some .zeroize ∧ decodeCommand 0x06 = none ∧
    (0x01 : BitVec 7).toNat ≠ 0x00 ∧ (0x7F : BitVec 7).toNat ≠ 0x00 := by decide

/-- Every range of the register map that WriteResult names, at both ends, and the offsets beside them that permit no write. -/
theorem witness_WriteResult_boundaries :
    (List.map (fun o => (locate o).mode.writable)
      [0x03, 0x05, 0x06, 0x07, 0x08, 0x10, 0x1F, 0x20, 0x2F, 0x30, 0x37, 0x38, 0x3F, 0x40, 0x4F, 0x50, 0x63]).all id = true ∧
    (List.map (fun o => (locate o).mode.writable) [0x01, 0x02, 0x04, 0x09, 0x0F, 0x64, 0x67, 0x68, 0x7B, 0x7C, 0x7F]).any id =
      false ∧
    (List.map (fun o => (session.memWrite toy o 0xA5).1.contents (locate o))
      [0x03, 0x05, 0x06, 0x07, 0x08, 0x10, 0x1F, 0x20, 0x2F, 0x30, 0x37, 0x38, 0x3F, 0x40, 0x4F, 0x50, 0x63]) =
      List.replicate 17 0xA5 := by decide

theorem witness_CredentialWriteEndsSession :
    (0x05 : BitVec 7).toNat = 0x05 ∧ (0x06 : BitVec 7).toNat = 0x06 ∧
    (0x10 ≤ (0x10 : BitVec 7).toNat ∧ (0x2F : BitVec 7).toNat ≤ 0x2F) ∧
    Loc.dlen ≠ locate 0x10 ∧ Loc.dlen ≠ .status := by decide

theorem witness_IllegalCommandFails : 0x06 ≤ (0x06 : Byte).toNat ∧ 0x06 ≤ (0xFF : Byte).toNat := by decide

theorem witness_CommandCompletions :
    isCommandWrite .nop = true ∧ isCommandWrite (.wr8 0x00 0x06) = true ∧ decodeCommand 0x05 = some .zeroize ∧
    decodeCommand 0x06 = none ∧ decodeCommand 0xFF = none := by decide

theorem witness_CommandWriteDispatches : (0x05 : Byte) = 0x05 ∧ 0x06 ≤ (0x06 : Byte).toNat := by decide

theorem witness_CommandFrame :
    isCommandWrite .enc = true ∧ (∃ t, exec .enc (withEvent session (.rst true)) = .next t) ∧ Instr.enc ≠ .zeroize ∧
    Instr.enc ≠ .wr8 0x00 0x05 ∧ Instr.enc ∉ [Instr.derive, .zeroize, .wr8 0x00 0x01, .wr8 0x00 0x05] :=
  ⟨rfl, ⟨_, rfl⟩, by decide, by decide, by decide⟩

theorem witness_DataAccessFrame :
    isCommandWrite (.wr8 0x50 0xAB) = false ∧ (∃ t, exec (.wr8 0x50 0xAB) State.reset = .next t) ∧
    isCredentialOffset 0x50 = false ∧ isCredentialOffset 0x0F = false ∧ isCredentialOffset 0x30 = false ∧
    Loc.din 1 ≠ locate 0x50 ∧ Loc.din 1 ≠ .status ∧ isCommandWrite (.rd8 0x00) = false :=
  ⟨rfl, ⟨_, rfl⟩, by decide, by decide, by decide, by decide, by decide, rfl⟩

theorem witness_OneResponseEach : isCommandWrite (.wr8 0x00 0xFF) = true ∧ (Response.busError 0x10).isBusError = true := by
  decide

theorem witness_CommandsIdempotent :
    isCommandWrite .derive = true ∧ ∃ t, exec .derive { State.reset with tfc := vd1 } = .next t := ⟨rfl, _, rfl⟩

theorem session_inv : session.Inv := by
  refine ⟨by decide, by decide, by decide, by decide, by decide, ?_, by decide⟩
  intro i _
  simp [session, Tfc.reset]

theorem witness_StepKeepsInvariant :
    ∃ s t : State, s.Inv ∧ step s = .next t ∧ s.tfc.keyValid = true :=
  ⟨withEvent session (.access (.write 0x00 0 0x02)), _, ⟨session_inv, by intro h; cases h⟩, rfl, rfl⟩

theorem witness_KeyWrittenOnlyAsListed :
    ∃ s t : State, step s = .next t ∧ (t.tfc.key ≠ s.tfc.key ∨ t.tfc.keyValid ≠ s.tfc.keyValid) :=
  ⟨withEvent session (.access (.write 0x00 0 0x05)), _, rfl, .inr (by decide)⟩

theorem witness_KeyUnobservableWithoutFrames :
    ∃ s s' t : State, s.SameButKey s' ∧ s'.tfc.key ≠ s.tfc.key ∧ (∀ e ∈ s.script, e.isFrameCommand = false) ∧
      core.run 1 s = .next t :=
  ⟨withEvent session (.access (.write 0x00 0 0x01)), withEvent { session with key := zeros 16 } (.access (.write 0x00 0 0x01)),
    _, rfl, by decide, by decide, rfl⟩

theorem witness_KeyUnobservable_refused :
    ∃ s : State, core.run 1 s = .refused .accessDuringReset ∧ (∀ e ∈ s.script, e.isFrameCommand = false) :=
  ⟨{ withEvent Tfc.reset (.access (.read 0x01 0)) with rst := true }, rfl, by decide⟩

theorem witness_CommandRoundTrip : ∃ s : State, s.rst = false ∧ s.tfc.keyValid = true :=
  ⟨withEvent session (.rst true), rfl, rfl⟩

theorem witness_ScriptIsFold :
    ∃ (bs : List BusAccess) (s : State) (rest : List HostEvent), s.rst = false ∧ s.script = bs.map .access ++ rest ∧ bs.length = 2 :=
  ⟨[.write 0x03 0 0x14, .read 0x03 0],
    { State.reset with script := [.access (.write 0x03 0 0x14), .access (.read 0x03 0), .rst true] }, [.rst true], rfl, rfl, rfl⟩

theorem witness_ScriptFaultNeverCleared :
    ∃ s t : State, step s = .next t ∧ s.scriptFault = true :=
  ⟨{ withEvent session (.access (.read 0x01 0)) with trace := [.busError 0x10] }, _, rfl, rfl⟩

theorem witness_CredentialLayout : 7 < toy.nameW.val ∧ 7 < 16 - toy.nameW.val := by decide

theorem derive_empty_succeeds (P : Params) (t : Tfc) (h1 : t.nameLen = 0) (h2 : t.passLen = 0) (h3 : t.nlLen = 8)
    (h4 : t.nrLen = 8) : (t.derive P).done = true := by
  rcases Tfc.derive_cases P t with ⟨h, _⟩ | ⟨_, _, h, _⟩ | ⟨_, _, _, _, e⟩
  · simp [h1, h2] at h
  · simp [h3, h4] at h
  · rw [e]; rfl

theorem witness_StaleCredentialBytesIgnored :
    ∃ s s' t : State, s'.tfc.nameLen = s.tfc.nameLen ∧ s'.tfc.passLen = s.tfc.passLen ∧ s'.tfc.nlLen = s.tfc.nlLen ∧
      s'.tfc.nrLen = s.tfc.nrLen ∧ s'.tfc.nl = s.tfc.nl ∧ s'.tfc.nr = s.tfc.nr ∧
      (∀ i : Fin 16, i.val < s.tfc.nameLen.toNat → s'.tfc.name[i] = s.tfc.name[i]) ∧
      (∀ i : Fin 16, i.val < s.tfc.passLen.toNat → s'.tfc.pass[i] = s.tfc.pass[i]) ∧
      exec .derive s = .next t ∧ t.tfc.done = true ∧ s'.tfc.name ≠ s.tfc.name :=
  ⟨{ State.reset with tfc := { vd1 with nameLen := 0, passLen := 0 } },
    { State.reset with tfc := { vd1 with nameLen := 0, passLen := 0, name := zeros 16 } }, _, rfl, rfl, rfl, rfl, rfl, rfl,
    by intro i h; exact absurd h (by simp), by intro i h; exact absurd h (by simp), rfl,
    derive_empty_succeeds _ _ rfl rfl rfl rfl, by decide⟩

theorem witness_TrailingZeroIsPadding :
    ∃ (t : Tfc) (i : Fin 16), i.val = t.nameLen.toNat ∧ t.name[i] = 0x00 := ⟨vd1, 7, rfl, rfl⟩

theorem witness_DeriveAgreesWithBlkenc :
    ∃ s s' : State, s.tfc.nameLen.toNat ≤ Config.nameW.val ∧ s.tfc.passLen.toNat ≤ 16 - Config.nameW.val ∧
      s.tfc.nlLen = 8 ∧ s.tfc.nrLen = 8 ∧ s'.tfc.bkey = s.tfc.cred Config.params ∧ s'.tfc.dlen = 16 ∧
      (∀ i : Fin 8, s'.tfc.din[i.val] = s.tfc.nl[i] ∧ s'.tfc.din[8 + i.val] = s.tfc.nr[i]) :=
  ⟨{ State.reset with tfc := { vd1 with nameLen := 0, passLen := 0 } },
    { State.reset with
      tfc :=
        { Tfc.reset with
          bkey := Tfc.cred Config.params { vd1 with nameLen := 0, passLen := 0 }, dlen := 16
          din := #v[0, 0, 0, 0, 0, 0, 0, 0, 0xFF, 0xFF, 0xFF, 0xFF, 0xFF, 0xFF, 0xFF, 0xFF, 0, 0, 0, 0] } },
    Nat.zero_le _, Nat.zero_le _, rfl, rfl, rfl, rfl, by decide⟩

theorem witness_DistinctFramesStayDistinct :
    ∃ s s' t t' : State, s.tfc.keyValid = true ∧ s'.tfc.keyValid = true ∧ s.tfc.dlen = 20 ∧ s'.tfc.dlen = 20 ∧
      s'.tfc.key = s.tfc.key ∧ s'.tfc.din ≠ s.tfc.din ∧ exec .enc s = .next t ∧ exec .enc s' = .next t' :=
  ⟨{ State.reset with tfc := session }, { State.reset with tfc := { session with din := ct1 } }, _, _, rfl, rfl, rfl, rfl, rfl,
    by decide, rfl, rfl⟩

theorem witness_BuildSucceedsInSession : session.keyValid = true ∧ (List.replicate 10 (0 : Byte)).length ≤ 10 := by decide

theorem witness_BuildFailures :
    10 < (List.replicate 11 (0 : Byte)).length ∧ (List.replicate 10 (0 : Byte)).length ≤ 10 ∧ Tfc.reset.keyValid = false ∧
    session.keyValid = true := by decide

theorem witness_LayoutFrameFields :
    plainHost.seqOrder = .le ∧ { plainHost with seqOrder := .be }.seqOrder = .be ∧ ([0xAA] : List Byte).length ≤ 10 ∧
    (List.replicate 10 (0 : Byte)).length ≤ 10 := by decide

theorem witness_DispatchRoutesToParser :
    (∀ i : Fin 10, (framePayload (fr1.set 2 0x01))[i] = (fr1.set 2 0x01)[10 + i.val]) ∧
    addressHost.kindOf (fr1.set 2 0x01)[2] = some .address ∧
    addressHost.addressAccepted (frameAddress (fr1.set 2 0x01)) = true ∧
    { addressHost with addressAccepted := fun _ => false }.addressAccepted (frameAddress fr1) = false ∧
    addressHost.kindOf fr1[2] = none ∧ (fr1.set 2 0x00)[2] = 0x00 := by decide

theorem witness_InboundNeverAborts :
    session.keyValid = true ∧ plainHost.kindOf (toy.fdec session.key ct1)[2] = none := by decide

end Sys2Proof.Tests
end

section
/-! PROOF. Byte writes: what `Tfc.store` puts at its location and what it keeps elsewhere (R39), the locations whose writes
end the session (R28), and the statement about them. -/

namespace Sys2Proof.Machine

/-! ### The effect of a permitted byte write -/

/-- A permitted write other than a command stores its byte (R39). -/
theorem Tfc.store_contents_same (P : Params) (l : Loc) (v : Byte) (t : Tfc) (hw : l.mode.writable = true) (hc : l ≠ .cmd) :
    (t.store P l v).contents l = v := by
  cases l with
  | cmd => exact absurd rfl hc
  | status | errcode | olen | dout _ | reserved _ => exact absurd hw Bool.false_ne_true
  | dlen | nameLen | passLen | nlLen | nrLen => rfl
  | name i | pass i | nl i | nr i | bkey i | din i => exact Vector.getElem_set_self i.isLt

/-- A write other than a command keeps every other location, but for `STATUS`, whose `KEY_VALID` bit it may clear (R28, R39). -/
theorem Tfc.store_contents_of_ne (P : Params) {l k : Loc} (v : Byte) (t : Tfc) (hc : l ≠ .cmd) (hk : l ≠ k) (hs : k ≠ .status) :
    (t.store P l v).contents k = t.contents k := by
  cases l with
  | cmd => exact absurd rfl hc
  | status | errcode | olen | dout _ | reserved _ => rfl
  | dlen | nameLen | passLen | nlLen | nrLen => cases k <;> simp_all [Tfc.store, Tfc.contents]
  | name i | pass i | nl i | nr i | bkey i | din i =>
    cases k <;> simp_all [Tfc.store, Tfc.contents, Vector.getElem_set_ne, Fin.val_inj]

/-- A write other than a command keeps `DONE` (R25, R39). -/
theorem Tfc.store_done (P : Params) {l : Loc} (v : Byte) (t : Tfc) (hc : l ≠ .cmd) : (t.store P l v).done = t.done := by
  cases l with
  | cmd => exact absurd rfl hc
  | _ => rfl

/-- A write other than a command keeps `ERR` (R25, R39). -/
theorem Tfc.store_err (P : Params) {l : Loc} (v : Byte) (t : Tfc) (hc : l ≠ .cmd) : (t.store P l v).err = t.err := by
  cases l with
  | cmd => exact absurd rfl hc
  | _ => rfl

/-- `WR8` at a writable offset stores and is acknowledged (R39). -/
theorem exec_wr8_of_writable (off : BitVec 7) (v : Byte) (s : State) (hw : (locate off).mode.writable = true) :
    exec (.wr8 off v) s = .next (s.respond (s.tfc.store Config.params (locate off) v) .ack) := by
  have e : s.tfc.memWrite Config.params off v = (s.tfc.store Config.params (locate off) v, .ack) := if_pos hw
  simp only [exec, execWr8, e]

/-! ### The credential locations -/

/-- The locations of R28: `NAME_LEN`, `PASS_LEN`, `NAME` and `PASS`. -/
def Loc.isCredential : Loc → Bool
  | .nameLen | .passLen | .name _ | .pass _ => true
  | _ => false

/-- The credential offsets are those at which the register map places a credential location (R28, R36). -/
theorem isCredential_locate (off : BitVec 7) : (locate off).isCredential = isCredentialOffset off := by
  revert off; decide

theorem Loc.writable_of_isCredential {l : Loc} (h : l.isCredential = true) : l.mode.writable = true := by
  cases l with
  | nameLen | passLen | name _ | pass _ => rfl
  | _ => exact absurd h Bool.false_ne_true

theorem Loc.ne_cmd_of_isCredential {l : Loc} (h : l.isCredential = true) : l ≠ .cmd := by
  rintro rfl
  exact absurd h Bool.false_ne_true

/-- A write at a credential location clears `KEY` and `KEY_VALID`, whatever they and the byte are (R28). -/
theorem Tfc.store_endsSession (P : Params) {l : Loc} (v : Byte) (t : Tfc) (h : l.isCredential = true) :
    (t.store P l v).key = zeros 16 ∧ (t.store P l v).keyValid = false := by
  cases l with
  | nameLen | passLen | name _ | pass _ => exact ⟨rfl, rfl⟩
  | _ => exact absurd h Bool.false_ne_true

/-- Settles O21: each of these offsets holds a credential location, which is written as any data location is, and the write
ends the session. -/
theorem credentialWriteEndsSession : Obligations.CredentialWriteEndsSession := by
  intro s off v hoff
  have hcred : (locate off).isCredential = true := by
    rw [isCredential_locate]
    simpa [isCredentialOffset, ← BitVec.toNat_inj, or_assoc] using hoff
  have hw := Loc.writable_of_isCredential hcred
  have hc := Loc.ne_cmd_of_isCredential hcred
  obtain ⟨hkey, hvalid⟩ := Tfc.store_endsSession Config.params v s.tfc hcred
  exact ⟨_, exec_wr8_of_writable off v s hw, Tfc.store_contents_same _ _ _ _ hw hc,
    fun _ hl hs => Tfc.store_contents_of_ne _ _ _ hc hl.symm hs, hkey, hvalid, Tfc.store_done _ _ _ hc, Tfc.store_err _ _ _ hc⟩

end Sys2Proof.Machine
end

section
/-! PROOF. The command dispatch of a write to `CMD` (R56): which command a byte runs, that every command completes with exactly
one of `DONE` and `ERR` (R112, R113), and the statement about it. -/

namespace Sys2Proof.Machine

/-! ### Every command completes one way or the other -/

/-- `DERIVE` completes: it fails in the cases of R66 and succeeds in the last one. -/
theorem Tfc.derive_done_xor_err (P : Params) (t : Tfc) : ((t.derive P).done ^^ (t.derive P).err) = true := by
  rcases Tfc.derive_cases P t with ⟨_, e⟩ | ⟨_, _, _, e⟩ | ⟨_, _, _, _, e⟩ <;> rw [e] <;> rfl

/-- `ENC` and `DEC` complete, whatever the transform (R73, R74). -/
theorem Tfc.codec_done_xor_err (f : Bytes 16 → Bytes 20 → Bytes 20) (t : Tfc) :
    ((t.codec f).done ^^ (t.codec f).err) = true := by
  rcases Tfc.codec_cases f t with ⟨_, e⟩ | ⟨_, _, e⟩ | ⟨_, _, e⟩ <;> rw [e] <;> rfl

/-- `BLKENC` completes (R82). -/
theorem Tfc.blkenc_done_xor_err (P : Params) (t : Tfc) : ((t.blkenc P).done ^^ (t.blkenc P).err) = true := by
  rcases Tfc.blkenc_cases P t with ⟨_, e⟩ | ⟨_, e⟩ <;> rw [e] <;> rfl

/-- The dispatch completes on every byte (R56). -/
theorem Tfc.runCommand_done_xor_err (P : Params) (c : Byte) (t : Tfc) :
    ((t.runCommand P c).done ^^ (t.runCommand P c).err) = true := by
  rcases Tfc.runCommand_cases P c t with
    ⟨_, e⟩ | ⟨_, e⟩ | ⟨_, e⟩ | ⟨_, e⟩ | ⟨_, e⟩ | ⟨_, e⟩ | ⟨_, e⟩ <;> rw [e]
  · rfl
  · exact t.derive_done_xor_err P
  · exact t.codec_done_xor_err P.fenc
  · exact t.codec_done_xor_err P.fdec
  · exact t.blkenc_done_xor_err P
  · rfl
  · rfl

/-! ### The byte written and the command it runs -/

/-- A code from 0x06 on fails with `IllegalCommand` (R57). -/
theorem Tfc.runCommand_illegal (P : Params) {c : Byte} (t : Tfc) (hc : 0x06 ≤ c.toNat) :
    t.runCommand P c = t.fail .illegalCommand := by
  rcases Tfc.runCommand_cases P c t with
    ⟨rfl, _⟩ | ⟨rfl, _⟩ | ⟨rfl, _⟩ | ⟨rfl, _⟩ | ⟨rfl, _⟩ | ⟨rfl, _⟩ | ⟨_, e⟩
  on_goal 7 => exact e
  all_goals exact absurd hc (by decide)

/-- `WR8` at 0x00 dispatches its byte and is acknowledged (R39, R56). -/
theorem exec_wr8_cmd (c : Byte) (s : State) :
    exec (.wr8 0x00 c) s = .next (s.respond (s.tfc.runCommand Config.params c) .ack) :=
  exec_wr8_of_writable 0x00 c s rfl

/-- Two instructions with one bus access have one meaning. -/
theorem exec_eq_of_encode_eq {i j : Instr} (s : State) (h : encode i = encode j) : exec i s = exec j s := by
  rw [exec_eq_access, exec_eq_access, h]

/-- Settles O22: a `WR8` of a command's code at 0x00 is the bus access of that command, and the dispatch on any byte
completes. -/
theorem commandWriteDispatches : Obligations.CommandWriteDispatches := by
  intro s c
  refine ⟨?nop, ?derive, ?enc, ?dec, ?blkenc, ?zeroize, _, exec_wr8_cmd c s, s.tfc.runCommand_done_xor_err _ c,
    s.tfc.runCommand_illegal Config.params⟩
  all_goals
    rintro rfl
    exact exec_eq_of_encode_eq s rfl

end Sys2Proof.Machine
end

section
/-! PROOF. The key derivation: the two halves of the credential buffer (R64), `DERIVE` on the TFC in the case its operands fall
in (R65, R66), and the statements about them. -/

namespace Sys2Proof.Machine

/-! ### The credential buffer -/

/-- The name's sub-range: the first `NAME_W` bytes (R64). -/
theorem Tfc.cred_name (P : Params) (t : Tfc) (i : Nat) (h : i < P.nameW.val) :
    (t.cred P)[i]'(by omega) = if i < t.nameLen.toNat then t.name[i]'(by omega) else 0x00 := by
  rw [Tfc.cred_getElem, if_pos h]

/-- The password's sub-range: the `PASS_W` bytes after the name's (R64). -/
theorem Tfc.cred_pass (P : Params) (t : Tfc) (j : Nat) (h : j < 16 - P.nameW.val) :
    (t.cred P)[P.nameW.val + j]'(by omega) = if j < t.passLen.toNat then t.pass[j]'(by omega) else 0x00 := by
  have hn : ¬P.nameW.val + j < P.nameW.val := by omega
  simp only [Tfc.cred_getElem, if_neg hn, Nat.add_sub_cancel_left]

/-- Settles O37: a byte of the buffer is one of the name's sub-range or one of the password's. -/
theorem credentialLayout : Obligations.CredentialLayout :=
  fun P t => ⟨t.cred_name P, t.cred_pass P⟩

/-! ### `DERIVE` -/

/-- Settles O14: the branches of the statement are the cases of `DERIVE`, which compares the nonce lengths as numbers. -/
theorem deriveResult : Obligations.DeriveResult := by
  refine ⟨rfl, fun s => ⟨_, rfl, ?_⟩⟩
  rw [State.respond_tfc]
  have eight (x : Byte) : x.toNat = 8 ↔ x = 8 := BitVec.toNat_inj (y := 8)
  rcases Tfc.derive_cases Config.params s.tfc with ⟨hlong, e⟩ | ⟨hname, hpass, hnonce, e⟩ | ⟨hname, hpass, hnl, hnr, e⟩
  · rw [e]
    exact (if_pos hlong).symm
  · rw [ne_eq, ne_eq, eight, eight] at hnonce
    rw [e]
    exact ((if_neg (not_or.mpr ⟨hname.not_gt, hpass.not_gt⟩)).trans (if_pos hnonce)).symm
  · rw [eight] at hnl hnr
    have hok : ¬(s.tfc.nlLen ≠ 8 ∨ s.tfc.nrLen ≠ 8) := by simp [hnl, hnr]
    rw [e]
    exact ((if_neg (not_or.mpr ⟨hname.not_gt, hpass.not_gt⟩)).trans (if_neg hok)).symm

end Sys2Proof.Machine
end

section
/-! PROOF. The frame codec: `ENC` and `DEC` as one operation on the TFC with the transform left open (R73, R74, R75), that
operation in a session on a whole frame (R76), and the statements about the two commands. -/

namespace Sys2Proof.Machine

/-! ### `ENC` and `DEC` on the TFC -/

/-- The outcome for every transform: no session, then a wrong length, else the transform of key and frame (R73, R74). -/
theorem Tfc.codec_eq (f : Bytes 16 → Bytes 20 → Bytes 20) (t : Tfc) :
    t.codec f =
      if t.keyValid = false then
        { t with done := false, err := true, errcode := 0x05, dout := Vector.replicate 20 0, olen := 0 }
      else if t.dlen ≠ 20 then
        { t with done := false, err := true, errcode := 0x03, dout := Vector.replicate 20 0, olen := 0 }
      else
        { t with dout := f t.key t.din, olen := 20, done := true, err := false, errcode := 0x00 } := by
  have twenty : t.dlen.toNat = 20 ↔ t.dlen = 20 := BitVec.toNat_inj (y := 20)
  rcases Tfc.codec_cases f t with ⟨hkey, e⟩ | ⟨hkey, hlen, e⟩ | ⟨hkey, hlen, e⟩
  · rw [e]
    exact (if_pos hkey).symm
  · rw [ne_eq, twenty] at hlen
    rw [e]
    exact ((if_neg (ne_false_of_eq_true hkey)).trans (if_pos hlen)).symm
  · rw [twenty] at hlen
    rw [e]
    exact ((if_neg (ne_false_of_eq_true hkey)).trans (if_neg (not_not.mpr hlen))).symm

/-- In a session, with `DLEN = 20`, no content of `DIN` is an error (R76). -/
theorem Tfc.codec_of_session (f : Bytes 16 → Bytes 20 → Bytes 20) {t : Tfc} (hkey : t.keyValid = true) (hlen : t.dlen = 20) :
    t.codec f = { t with dout := f t.key t.din, olen := 20, done := true, err := false, errcode := 0x00 } := by
  rw [Tfc.codec_eq, if_neg (ne_false_of_eq_true hkey), if_neg (not_not.mpr hlen)]

/-! ### The two commands -/

/-- `ENC` answers the codec with `FENC` (R73). -/
theorem exec_enc (s : State) : exec .enc s = .next (s.respond (s.tfc.codec Config.params.fenc) .ack) := rfl

/-- `DEC` answers the codec with `FDEC` (R74). -/
theorem exec_dec (s : State) : exec .dec s = .next (s.respond (s.tfc.codec Config.params.fdec) .ack) := rfl

/-- Settles O15: `ENC` is the codec with `FENC`. -/
theorem encResult : Obligations.EncResult :=
  ⟨rfl, fun s => ⟨_, exec_enc s, s.tfc.codec_eq Config.params.fenc⟩⟩

/-- Settles O16: `DEC` is the codec with `FDEC`, and the cleartext comes back by `FrameRoundTrip` (R6). -/
theorem decResult : Obligations.DecResult := by
  refine ⟨rfl, fun s => ⟨_, exec_dec s, s.tfc.codec_eq Config.params.fdec, fun x hkey hlen hdin => ?_⟩⟩
  calc (s.tfc.codec Config.params.fdec).dout
    _ = Config.params.fdec s.tfc.key s.tfc.din := congrArg Tfc.dout (Tfc.codec_of_session _ hkey hlen)
    _ = Config.params.fdec s.tfc.key (Config.params.fenc s.tfc.key x) := by rw [hdin]
    _ = x := Config.params.fdec_fenc s.tfc.key x

/-- Settles O17: the session and the length are not in `DIN`, so any frame stored there meets the codec's two checks. -/
theorem decSucceedsOnEveryCiphertext : Obligations.DecSucceedsOnEveryCiphertext :=
  fun s y hkey hlen =>
    ⟨_, exec_dec _, Tfc.codec_of_session (t := { s.tfc with din := y }) Config.params.fdec hkey hlen⟩

end Sys2Proof.Machine
end

section
/-! PROOF. The block core: `BLKENC` on the TFC for each block length (R82), its operand and result as bytes of `DIN` and `DOUT`,
and the statement about it. -/

namespace Sys2Proof.Machine

/-! ### `BLKENC` on the TFC -/

/-- A length other than 16 fails, whatever the block and the session (R82). -/
theorem Tfc.blkenc_of_dlen_ne (P : Params) {t : Tfc} (hlen : t.dlen ≠ 16) : t.blkenc P = t.fail .invalidFrameLength := by
  rcases Tfc.blkenc_cases P t with ⟨_, e⟩ | ⟨h, _⟩
  · exact e
  · exact absurd (BitVec.toNat_inj (y := 16) |>.mp h) hlen

/-- At length 16 no content of `DIN` or `BKEY` is an error (R82). -/
theorem Tfc.blkenc_of_dlen (P : Params) {t : Tfc} (hlen : t.dlen = 16) :
    t.blkenc P = Tfc.succeed { t with dout := blockOut (P.p16 t.bkey t.blockIn), olen := 16 } := by
  rcases Tfc.blkenc_cases P t with ⟨h, _⟩ | ⟨_, e⟩
  · exact absurd (congrArg BitVec.toNat hlen) h
  · exact e

/-- The block operand is determined by its 16 bytes of `DIN`. -/
theorem Tfc.eq_blockIn {t : Tfc} {b : Bytes 16} (hb : ∀ i : Fin 16, b[i] = t.din[i.val]) : b = t.blockIn :=
  Vector.ext fun i hi => (hb ⟨i, hi⟩).trans (t.blockIn_getElem i hi).symm

/-! ### The command -/

/-- `BLKENC` answers the block core with `P16`. -/
theorem exec_blkenc (s : State) : exec .blkenc s = .next (s.respond (s.tfc.blkenc Config.params) .ack) := rfl

/-- Settles O18: the two lengths are the two cases of `BLKENC`, and `blockOut` lays the result out in `DOUT`. -/
theorem blkencResult : Obligations.BlkencResult := by
  refine ⟨rfl, fun s => ⟨_, exec_blkenc s, Tfc.blkenc_of_dlen_ne Config.params, fun hlen => ?_⟩⟩
  rw [State.respond_tfc, Tfc.blkenc_of_dlen Config.params hlen]
  refine ⟨rfl, fun b hb i => ?_, fun i => ?_⟩
  · rw [Tfc.eq_blockIn hb]
    exact blockOut_low _ i.val i.isLt
  · exact blockOut_high _ (16 + i.val) (Nat.le_add_right 16 i.val) (by omega)

end Sys2Proof.Machine
end

section
/-! PROOF. The control commands: `NOP` and `ZEROIZE` on the TFC (R86, R87), what an `ENC` finds after the session has ended, and
the statements about the two commands. -/

namespace Sys2Proof.Machine

/-! ### `NOP` -/

/-- `NOP` answers its completion in every state (R86). -/
theorem exec_nop (s : State) : exec .nop s = .next (s.respond s.tfc.nop .ack) := rfl

/-- `NOP` on the TFC is the completion flags and nothing else (R86). -/
theorem Tfc.nop_eq (t : Tfc) : t.nop = { t with done := true, err := false, errcode := 0x00 } := rfl

/-- Settles O12: `NOP` is the bare completion of a command. -/
theorem nopResult : Obligations.NopResult :=
  ⟨rfl, fun s => ⟨_, exec_nop s, s.tfc.nop_eq⟩⟩

/-! ### `ZEROIZE` -/

/-- `ZEROIZE` answers the cleared state in every state (R87). -/
theorem exec_zeroize (s : State) : exec .zeroize s = .next (s.respond s.tfc.zeroize .ack) := rfl

/-- `ZEROIZE` leaves the reset state but for the credentials, their lengths and `DONE` (R87): of the old state it reads the
credentials and their lengths alone. -/
theorem Tfc.zeroize_eq_reset (t : Tfc) :
    t.zeroize =
      { Tfc.reset with
        name := t.name, pass := t.pass, nameLen := t.nameLen, passLen := t.passLen, done := true } := rfl

/-- `ZEROIZE` twice is `ZEROIZE` once (R87): the second one reads the credentials that the first one kept. -/
theorem Tfc.zeroize_zeroize (t : Tfc) : t.zeroize.zeroize = t.zeroize := by
  rw [t.zeroize.zeroize_eq_reset, t.zeroize_name, t.zeroize_pass, t.zeroize_nameLen, t.zeroize_passLen, ← t.zeroize_eq_reset]

/-- Without a session `ENC` and `DEC` fail with `NoActiveSession`, whatever the length (R75). -/
theorem Tfc.codec_of_noSession (f : Bytes 16 → Bytes 20 → Bytes 20) {t : Tfc} (hkey : t.keyValid = false) :
    t.codec f = t.fail .noActiveSession := by
  rcases Tfc.codec_cases f t with ⟨_, e⟩ | ⟨h, _⟩ | ⟨h, _⟩
  · exact e
  · exact absurd hkey (ne_false_of_eq_true h)
  · exact absurd hkey (ne_false_of_eq_true h)

/-- Settles O13: the listed end state is the reset state's own values. `ZEROIZE` reads only what it keeps, so a second one
changes nothing, and it ends the session, so the codec refuses the `ENC` after it. -/
theorem zeroizeResult : Obligations.ZeroizeResult := by
  refine ⟨rfl, fun s => ⟨_, exec_zeroize s, s.tfc.zeroize_eq_reset, s.tfc.zeroize_eq_reset, ?twice, ?enc⟩⟩
  case twice => exact ⟨_, exec_zeroize _, s.tfc.zeroize_zeroize⟩
  case enc =>
    have refused : s.tfc.zeroize.codec Config.params.fenc = s.tfc.zeroize.fail .noActiveSession :=
      Tfc.codec_of_noSession _ s.tfc.zeroize_keyValid
    exact ⟨_, exec_enc _, congrArg Tfc.err refused, congrArg Tfc.errcode refused⟩

end Sys2Proof.Machine
end

section
/-! PROOF. The decoder and the register map: what a byte write decodes to (R55, R57), which `WR8` terms are well formed, the
bus addresses of the window (R35, R37), and the statements about them. -/

namespace Sys2Proof.Machine

/-! ### The decoder -/

/-- A byte write to offset 0x00 is the command of its code, or else a `WR8` (R55, R57). -/
theorem decode_write_cmd (c : Byte) : decode (.write 0x00 0 c) = .ok ((decodeCommand c).getD (.wr8 0x00 c)) := rfl

/-- A byte write to any other offset is a `WR8` (R60). -/
theorem decode_write_of_ne {off : BitVec 7} (v : Byte) (ho : off ≠ 0x00) : decode (.write off 0 v) = .ok (.wr8 off v) := by
  have ho' : off.toNat ≠ 0x00 := fun h => ho (BitVec.eq_of_toNat_eq h)
  simp [decode, ho']

/-- The codes that select no command are those from 0x06 on (R57). -/
theorem decodeCommand_eq_none_iff (c : Byte) : decodeCommand c = none ↔ 0x06 ≤ c.toNat := by
  revert c; decide

/-- A `WR8` is well formed where the decoder gives it and not a command. -/
theorem wellFormed_wr8 (off : BitVec 7) (v : Byte) :
    (Instr.wr8 off v).wellFormed = true ↔ (off = 0x00 → decodeCommand v = none) := by
  rw [decodeCommand_eq_none_iff]
  simp [Instr.wellFormed, ← BitVec.toNat_inj, imp_iff_not_or]

/-- A command is well formed. -/
theorem wellFormed_of_decodeCommand {c : Byte} {i : Instr} (h : decodeCommand c = some i) : i.wellFormed = true := by
  rcases decodeCommand_cases c with ⟨_, e⟩ | ⟨_, e⟩ | ⟨_, e⟩ | ⟨_, e⟩ | ⟨_, e⟩ | ⟨_, e⟩ | ⟨_, e⟩
  on_goal 7 => exact absurd (e.symm.trans h) (Option.some_ne_none i).symm
  all_goals
    obtain rfl := Option.some.inj (e.symm.trans h)
    rfl

/-- What the decoder gives for a byte write is well formed. -/
theorem wellFormed_of_decode_write {off : BitVec 7} {v : Byte} {i : Instr} (h : decode (.write off 0 v) = .ok i) :
    i.wellFormed = true := by
  by_cases ho : off = 0x00
  · subst ho
    rw [decode_write_cmd] at h
    cases hv : decodeCommand v with
    | none =>
      obtain rfl : Instr.wr8 0x00 v = i := by simpa [hv] using h
      exact (wellFormed_wr8 0x00 v).mpr fun _ => hv
    | some j =>
      obtain rfl : j = i := by simpa [hv] using h
      exact wellFormed_of_decodeCommand hv
  · rw [decode_write_of_ne v ho] at h
    cases h
    exact (wellFormed_wr8 off v).mpr fun h0 => absurd h0 ho

/-- Settles O2: only a `WR8` at 0x00 shares its access with another term, the command of its byte, and then it is ill formed. -/
theorem decodeOfEncode : Obligations.DecodeOfEncode := by
  intro i hi
  cases i with
  | rd8 off => rfl
  | wr8 off v =>
    by_cases ho : off = 0x00
    · subst ho
      rw [encode, decode_write_cmd, (wellFormed_wr8 0x00 v).mp hi rfl]
      rfl
    · exact decode_write_of_ne v ho
  | _ => rfl

/-- Settles O3: a decoded access is a byte access, and a byte access is the encoding of what it decodes to. -/
theorem encodeOfDecode : Obligations.EncodeOfDecode := by
  intro b i h
  rcases decode_cases b with ⟨hbyte, j, hj, henc⟩ | ⟨_, hw⟩
  · obtain rfl : j = i := Except.ok.inj (hj.symm.trans h)
    refine ⟨henc, ?_⟩
    cases b with
    | read off extra =>
      obtain rfl : extra = 0 := hbyte
      cases h
      rfl
    | write off extra v =>
      obtain rfl : extra = 0 := hbyte
      exact wellFormed_of_decode_write h
  · rw [hw] at h
    cases h

/-- The access of a command writes its code to `CMD` (R55). -/
theorem encode_of_decodeCommand {c : Byte} {i : Instr} (h : decodeCommand c = some i) : encode i = .write 0x00 0 c := by
  have hd : decode (.write 0x00 0 c) = .ok i := by rw [decode_write_cmd, h, Option.getD_some]
  exact (encodeOfDecode _ _ hd).left

/-- Settles O1: the six codes select their commands, and from 0x06 on none is selected. -/
theorem commandCodesDecode : Obligations.CommandCodesDecode := by
  refine ⟨rfl, rfl, rfl, rfl, rfl, rfl, fun c hc => ?_⟩
  rw [decode_write_cmd, (decodeCommand_eq_none_iff c).mpr hc]
  rfl

/-! ### The register map and the window -/

/-- Settles O4: a finite check of the map's 128 offsets. -/
theorem registerMapOffsets : Obligations.RegisterMapOffsets := by
  unfold Obligations.RegisterMapOffsets
  decide

/-- A byte access targets the window exactly within its 128 addresses (R35, R37). -/
theorem firstTarget_byte (addr : Nat) :
    firstTarget addr 1 =
      if Config.tfcBase ≤ addr ∧ addr ≤ Config.tfcBase + 0x7F then some (BitVec.ofNat 7 (addr - Config.tfcBase)) else none := by
  have hin : (addr < Config.tfcBase + 128 ∧ Config.tfcBase < addr + 1) ↔
      (Config.tfcBase ≤ addr ∧ addr ≤ Config.tfcBase + 0x7F) := by omega
  simp only [firstTarget, hin]

/-- Settles O5: the address of an offset lies within the window and is that far from its base. -/
theorem windowAddresses : Obligations.WindowAddresses := by
  refine ⟨fun off => ?_, fun addr hout => ?_⟩
  · have hin : Config.tfcBase ≤ busAddress off ∧ busAddress off ≤ Config.tfcBase + 0x7F := by
      have := off.isLt
      unfold busAddress
      omega
    rw [firstTarget_byte, if_pos hin, busAddress, Nat.add_sub_cancel_left, BitVec.ofNat_toNat, BitVec.setWidth_eq]
  · rw [firstTarget_byte, if_neg (by omega)]

end Sys2Proof.Machine
end

section
/-! PROOF. One step of the machine by its next host event (R31, R40, R125), its inversion, what it does to the responses, the
run of a script's accesses, and the statements about them. -/

namespace Sys2Proof.Machine

/-! ### The step by its next event -/

/-- With no event left nothing changes (R31). -/
theorem step_idle {s : State} (hs : s.script = []) : step s = .next s := by
  simp only [step, hs]

/-- The reset input is driven (R125). -/
theorem step_rst {s : State} {level : Bool} {rest : List HostEvent} (hs : s.script = .rst level :: rest) :
    step s = .next ((s.advance rest).driveRst level) := by
  simp only [step, hs]

/-- An access while `RST` is asserted is refused (R125, U20). -/
theorem step_access_inReset {s : State} {b : BusAccess} {rest : List HostEvent} (hr : s.rst = true)
    (hs : s.script = .access b :: rest) : step s = .refused .accessDuringReset := by
  simp only [step, hs, hr, ↓reduceIte]

/-- An access that decodes runs its instruction (R32). -/
theorem step_of_decode {s : State} {b : BusAccess} {rest : List HostEvent} {i : Instr} (hr : s.rst = false)
    (hs : s.script = .access b :: rest) (hd : decode b = .ok i) : step s = exec i (s.advance rest) := by
  simp only [step, hs, hr, hd, Bool.false_eq_true, ↓reduceIte]

/-- An accepted access, wide or not, is R32's step on the TFC (R32, R40). -/
theorem step_access {s : State} {b : BusAccess} {rest : List HostEvent} (hr : s.rst = false)
    (hs : s.script = .access b :: rest) :
    step s =
      .next ((s.advance rest).respond (s.tfc.access Config.params b).1 (s.tfc.access Config.params b).2) := by
  rcases step_cases s with ⟨h, _⟩ | ⟨_, _, h, _⟩ | ⟨b', rest', h, ⟨h', _⟩ | ⟨_, e⟩⟩
  · cases h.symm.trans hs
  · cases h.symm.trans hs
  · exact absurd hr (ne_false_of_eq_true h')
  · cases h.symm.trans hs
    exact e

/-- Where a step's next state comes from: the idle machine, the reset input, or an accepted access. -/
theorem step_next_cases {s t : State} (h : step s = .next t) :
    (s.script = [] ∧ t = s) ∨
    (∃ level rest, s.script = .rst level :: rest ∧ t = (s.advance rest).driveRst level) ∨
    (∃ b rest, s.script = .access b :: rest ∧ s.rst = false ∧
      t = (s.advance rest).respond (s.tfc.access Config.params b).1 (s.tfc.access Config.params b).2) := by
  rcases step_cases s with ⟨hs, e⟩ | ⟨level, rest, hs, e⟩ | ⟨b, rest, hs, ⟨_, e⟩ | ⟨hr, e⟩⟩
  all_goals cases e.symm.trans h
  · exact .inl ⟨hs, rfl⟩
  · exact .inr (.inl ⟨level, rest, hs, rfl⟩)
  · exact .inr (.inr ⟨b, rest, hs, hr, rfl⟩)

/-- Settles O11: of the cases of a step only the access during reset has no next state. -/
theorem stepAnswersUnlessInReset : Obligations.StepAnswersUnlessInReset := by
  intro s
  rcases step_cases s with ⟨_, e⟩ | ⟨_, _, _, e⟩ | ⟨b, rest, hs, ⟨hr, e⟩ | ⟨_, e⟩⟩
  · exact .inl ⟨_, e⟩
  · exact .inl ⟨_, e⟩
  · exact .inr ⟨hr, ⟨b, rest, hs⟩, e⟩
  · exact .inl ⟨_, e⟩

/-- Settles O6: taking the event off the script is all that happens besides `exec`. -/
theorem stepRunsDecodedInstruction : Obligations.StepRunsDecodedInstruction :=
  fun _ _ _ _ hr hs hd _ => step_of_decode hr hs hd

/-- Settles O7: R32's step answers a wide access with a bus error and the same TFC. -/
theorem wideAccessBusError : Obligations.WideAccessBusError := by
  intro s b rest hr hs hw
  rw [step_access hr hs, Tfc.access_wide _ _ _ hw]
  rfl

/-- Settles O8: the idle case of a step. -/
theorem idleStepKeepsState : Obligations.IdleStepKeepsState :=
  fun _ => step_idle

/-- Settles O9: driving `RST` at either edge writes the reset values, which are those listed. -/
theorem resetGivesResetValues : Obligations.ResetGivesResetValues := by
  refine ⟨fun s level rest hs hedge => ⟨_, step_rst hs, ?_⟩, rfl⟩
  have hreset : (level || s.rst) = true := by simpa using hedge
  exact if_pos hreset

/-- Settles O10: the refused case of a step. -/
theorem accessDuringResetRefused : Obligations.AccessDuringResetRefused :=
  fun _ _ _ => step_access_inReset

/-! ### Responses and scripts -/

/-- A step appends the response of its access, if it has one (R32, R108). -/
theorem step_trace {s t : State} (h : step s = .next t) : ∃ rs, t.trace = s.trace ++ rs ∧ rs.length ≤ 1 := by
  rcases step_next_cases h with ⟨_, rfl⟩ | ⟨_, _, _, rfl⟩ | ⟨b, _, _, _, rfl⟩
  · exact ⟨[], by simp⟩
  · exact ⟨[], by simp⟩
  · exact ⟨[(s.tfc.access Config.params b).2], rfl, le_rfl⟩

/-- Settles O36: the trace only grows, so a bus error in it stays. -/
theorem scriptFaultNeverCleared : Obligations.ScriptFaultNeverCleared := by
  intro s t h
  obtain ⟨rs, htrace, hlen⟩ := step_trace h
  refine ⟨⟨rs, htrace, hlen⟩, fun hfault => ?_⟩
  rw [State.scriptFault] at hfault ⊢
  rw [htrace, List.any_append, hfault, Bool.true_or]

/-- Settles O35: by induction on the accesses; the first is one step of the machine and one of the fold. -/
theorem scriptIsFold : Obligations.ScriptIsFold := by
  intro bs
  induction bs with
  | nil =>
    intro s rest _ hs
    simp only [List.map_nil, List.nil_append] at hs
    simp [Tfc.play, ← hs]
  | cons b bs ih =>
    intro s rest hr hs
    refine (core_run_next bs.length (step_access hr hs)).trans ?_
    refine (ih _ rest ?released ?script).trans ?fold
    case released => exact hr
    case script => rfl
    case fold => simp [Tfc.play, State.advance]

end Sys2Proof.Machine
end

section
/-! PROOF. Byte reads and byte writes: what a read returns and a write stores at each offset (R38, R39), the three effects an
access can have on the TFC, what a data access leaves unchanged (R42, R116), and the statements about them. -/

namespace Sys2Proof.Machine

/-! ### Reads -/

/-- `RD8` answers the read and keeps the TFC (R38). -/
theorem exec_rd8 (off : BitVec 7) (s : State) : exec (.rd8 off) s = .next (s.respond s.tfc (s.tfc.memRead off)) := rfl

/-- `STATUS` as three flags in their bits (R25). -/
theorem Tfc.status_eq (t : Tfc) :
    t.status =
      ((BitVec.ofBool t.keyValid).setWidth 8 ||| ((BitVec.ofBool t.done).setWidth 8 <<< 1) |||
        ((BitVec.ofBool t.err).setWidth 8 <<< 2)) := by
  have hflag (b : Bool) : flagByte b = (BitVec.ofBool b).setWidth 8 := by cases b <;> rfl
  simp only [Tfc.status, hflag]

/-- Settles O19: the register map by its ranges gives what a read finds, and a read keeps the TFC for the next one. -/
theorem readResult : Obligations.ReadResult := by
  intro s off
  refine ⟨_, _, exec_rd8 off s, rfl, rfl, ?_, _, exec_rd8 off _, rfl, rfl⟩
  rw [← Tfc.status_eq, Tfc.memRead]
  rcases locate_cases off with ⟨ho, hl⟩ | ⟨ho, hl⟩ | ⟨ho, hl⟩ | ⟨ho, hl⟩ | ⟨ho, hl⟩ | ⟨ho, hl⟩ | ⟨ho, hl⟩ | ⟨ho, hl⟩ |
    ⟨ho, hl⟩ | ⟨i, ho, hl⟩ | ⟨i, ho, hl⟩ | ⟨i, ho, hl⟩ | ⟨i, ho, hl⟩ | ⟨i, ho, hl⟩ | ⟨i, ho, hl⟩ | ⟨i, ho, hl⟩ | ⟨ho, hl⟩
  all_goals
    simp (disch := omega) only [hl, ho, Loc.mode, Mode.readable, Tfc.contents, if_neg, dif_pos, dif_neg, ↓reduceIte,
      Nat.add_sub_cancel_left, Fin.getElem_fin, Bool.false_eq_true]

/-! ### Writes -/

/-- A write that is not permitted would store nothing (R37). -/
theorem Tfc.store_of_not_writable (P : Params) {l : Loc} (v : Byte) (t : Tfc) (hw : l.mode.writable = false) :
    t.store P l v = t := by
  cases l with
  | status | errcode | olen | dout _ | reserved _ => rfl
  | _ => cases hw

/-- A byte write stores, permitted or not, and the response says whether it was (R37, R39). -/
theorem Tfc.memWrite_eq (P : Params) (off : BitVec 7) (v : Byte) (t : Tfc) :
    t.memWrite P off v =
      (t.store P (locate off) v, if (locate off).mode.writable then .ack else .busError off) := by
  rcases Tfc.memWrite_cases P off v t with ⟨hw, e⟩ | ⟨hw, e⟩
  · rw [e, hw, if_pos rfl]
  · rw [e, hw, Tfc.store_of_not_writable P v t hw, if_neg Bool.false_ne_true]

/-- `WR8` answers the byte write (R39). -/
theorem exec_wr8 (off : BitVec 7) (v : Byte) (s : State) :
    exec (.wr8 off v) s =
      .next (s.respond (s.tfc.memWrite Config.params off v).1 (s.tfc.memWrite Config.params off v).2) := rfl

/-- `CMD` stands at offset 0x00 only (R36). -/
theorem locate_eq_cmd_iff (off : BitVec 7) : locate off = .cmd ↔ off = 0x00 := by
  revert off; decide

/-- Settles O23: such a code runs no command and fails. -/
theorem illegalCommandFails : Obligations.IllegalCommandFails :=
  fun s c hc => ⟨_, exec_wr8_cmd c s, rfl, s.tfc.runCommand_illegal Config.params hc⟩

/-- Settles O20: at 0x00 by the dispatch, elsewhere by the ranges of the register map. -/
theorem writeResult : Obligations.WriteResult := by
  intro s off v
  refine ⟨fun ho i hi => ?command, fun ho hv => ?illegal, fun ho => ⟨_, _, exec_wr8 off v s, rfl, ?data⟩⟩
  case command =>
    obtain rfl : off = 0x00 := BitVec.eq_of_toNat_eq ho
    exact exec_eq_of_encode_eq s (encode_of_decodeCommand hi).symm
  case illegal =>
    obtain rfl : off = 0x00 := BitVec.eq_of_toNat_eq ho
    exact illegalCommandFails s v ((decodeCommand_eq_none_iff v).mp hv)
  case data =>
    rw [State.respond_tfc, Prod.mk.eta, Tfc.memWrite]
    rcases locate_cases off with ⟨h0, _⟩ | ⟨ho, hl⟩ | ⟨ho, hl⟩ | ⟨ho, hl⟩ | ⟨ho, hl⟩ | ⟨ho, hl⟩ | ⟨ho, hl⟩ | ⟨ho, hl⟩ |
      ⟨ho, hl⟩ | ⟨i, ho, hl⟩ | ⟨i, ho, hl⟩ | ⟨i, ho, hl⟩ | ⟨i, ho, hl⟩ | ⟨i, ho, hl⟩ | ⟨i, ho, hl⟩ | ⟨i, ho, hl⟩ | ⟨ho, hl⟩
    on_goal 1 => exact absurd h0 ho
    all_goals
      simp (disch := omega) only [hl, ho, Loc.mode, Mode.writable, Tfc.store, Tfc.endSession, zeros, if_neg, dif_pos,
        dif_neg, ↓reduceIte, Nat.add_sub_cancel_left, Bool.false_eq_true]

/-! ### Every access -/

/-- A byte write as an access (R32, R39). -/
theorem Tfc.access_write (P : Params) (off : BitVec 7) (v : Byte) (t : Tfc) :
    t.access P (.write off 0 v) = t.memWrite P off v := rfl

/-- What an access makes of the TFC: nothing, a command, or a store at another location than `CMD` (R38, R39, R40). -/
theorem Tfc.access_effect (P : Params) (b : BusAccess) (t : Tfc) :
    (t.access P b).1 = t ∨
    (∃ c, b = .write 0x00 0 c ∧ (t.access P b).1 = t.runCommand P c) ∨
    (∃ off v, b = .write off 0 v ∧ locate off ≠ .cmd ∧ (t.access P b).1 = t.store P (locate off) v) := by
  rcases Nat.eq_zero_or_pos b.extra with hb | hw
  · cases b with
    | read off extra =>
      obtain rfl : extra = 0 := hb
      exact .inl rfl
    | write off extra v =>
      obtain rfl : extra = 0 := hb
      by_cases ho : off = 0x00
      · subst ho
        exact .inr (.inl ⟨v, rfl, rfl⟩)
      · exact .inr (.inr ⟨off, v, rfl, mt (locate_eq_cmd_iff off).mp ho, congrArg Prod.fst (t.memWrite_eq P off v)⟩)
  · exact .inl (by rw [Tfc.access_wide P b t hw])

/-- An access that ends in a bus error changes nothing (R41). -/
theorem Tfc.access_of_busError (P : Params) (b : BusAccess) (t : Tfc) (h : (t.access P b).2.isBusError = true) :
    (t.access P b).1 = t := by
  rcases Nat.eq_zero_or_pos b.extra with hb | hw
  · cases b with
    | read off extra =>
      obtain rfl : extra = 0 := hb
      rfl
    | write off extra v =>
      obtain rfl : extra = 0 := hb
      rw [Tfc.access_write] at h ⊢
      rcases Tfc.memWrite_cases P off v t with ⟨_, e⟩ | ⟨_, e⟩
      · rw [e] at h
        cases h
      · rw [e]
  · rw [Tfc.access_wide P b t hw]

/-- Settles O27: an instruction responds as its bus access does, and the access of a command writes `CMD`. -/
theorem oneResponseEach : Obligations.OneResponseEach := by
  intro i s
  refine ⟨_, _, exec_eq_access i s, rfl, fun hi => ?_, Tfc.access_of_busError Config.params (encode i) s.tfc⟩
  obtain ⟨c, hc, _⟩ := exec_commandWrite i s hi
  rw [hc]
  rfl

/-! ### What a data access leaves unchanged -/

/-- A write other than a command keeps the completion of the last command and its result (R25, R39, R116). -/
theorem Tfc.store_keeps_result (P : Params) {l : Loc} (v : Byte) (t : Tfc) (hc : l ≠ .cmd) :
    (t.store P l v).done = t.done ∧ (t.store P l v).err = t.err ∧ (t.store P l v).errcode = t.errcode ∧
      (t.store P l v).dout = t.dout ∧ (t.store P l v).olen = t.olen := by
  cases l with
  | cmd => exact absurd rfl hc
  | _ => exact ⟨rfl, rfl, rfl, rfl, rfl⟩

/-- A write at no credential location and no command keeps the key (R11, R28). -/
theorem Tfc.store_keeps_key (P : Params) {l : Loc} (v : Byte) (t : Tfc) (hc : l ≠ .cmd) (hl : l.isCredential = false) :
    (t.store P l v).key = t.key ∧ (t.store P l v).keyValid = t.keyValid := by
  cases l with
  | cmd => exact absurd rfl hc
  | nameLen | passLen | name _ | pass _ => cases hl
  | _ => exact ⟨rfl, rfl⟩

/-- Settles O26: a read keeps the TFC, and a write stores at the location of its offset, which is not `CMD`. -/
theorem dataAccessFrame : Obligations.DataAccessFrame := by
  intro i s t hi h
  cases i with
  | rd8 off =>
    cases (exec_rd8 off s).symm.trans h
    exact ⟨⟨rfl, rfl, rfl, rfl, rfl⟩, fun _ _ => rfl, fun _ _ e => (nomatch e), fun _ _ e => (nomatch e), rfl, rfl⟩
  | wr8 off v =>
    have hc : locate off ≠ .cmd := mt (locate_eq_cmd_iff off).mp (by simpa [isCommandWrite] using hi)
    cases (exec_wr8 off v s).symm.trans h
    rw [State.respond_tfc, Tfc.memWrite_eq]
    refine ⟨Tfc.store_keeps_result _ _ _ hc, fun _ e => (nomatch e), ?other, ?key, rfl, rfl⟩
    case other =>
      rintro _ _ ⟨rfl⟩ l hl hs
      exact Tfc.store_contents_of_ne _ _ _ hc hl.symm hs
    case key =>
      rintro _ _ ⟨rfl⟩ hcred
      exact Tfc.store_keeps_key _ _ _ hc ((isCredential_locate off).trans hcred)
  | _ => cases hi

end Sys2Proof.Machine
end

section
/-! PROOF. The commands as a family: how each can complete (R112, R113, R114), what they leave unchanged (R54), a command
repeated (R42), and the statements about them. -/

namespace Sys2Proof.Machine

/-! ### How a write to `CMD` completes -/

/-- The table of R114: the errors that a byte written to `CMD` can raise, by the command it selects. -/
def errorKinds : Option Instr → List ErrorKind
  | some .derive => [.invalidCredentials, .pairingNonceError]
  | some .enc | some .dec => [.noActiveSession, .invalidFrameLength]
  | some .blkenc => [.invalidFrameLength]
  | some _ => []
  | none => [.illegalCommand]

/-- `PayloadTooLarge` is in no row of the table (R110). -/
theorem ne_payloadTooLarge_of_mem {o : Option Instr} {e : ErrorKind} (he : e ∈ errorKinds o) : e ≠ .payloadTooLarge := by
  rintro rfl
  unfold errorKinds at he
  split at he <;> simp at he

/-- The table row by row. -/
theorem errorKinds_row {o : Option Instr} {e : ErrorKind} (he : e ∈ errorKinds o) :
    (o = none → e = .illegalCommand) ∧
    (o = some .derive → e = .invalidCredentials ∨ e = .pairingNonceError) ∧
    (o = some .enc ∨ o = some .dec → e = .noActiveSession ∨ e = .invalidFrameLength) ∧
    (o = some .blkenc → e = .invalidFrameLength) ∧ o ≠ some .nop ∧ o ≠ some .zeroize := by
  refine ⟨?illegal, ?derive, ?codec, ?blkenc, ?nop, ?zeroize⟩
  case codec => rintro (rfl | rfl) <;> simpa [errorKinds] using he
  case nop | zeroize =>
    rintro rfl
    cases he
  all_goals
    rintro rfl
    simpa [errorKinds] using he

/-- The completions of a byte written to `CMD`, from a TFC to the next: a success of the command it selects, or a failure with
an error of its row (R56, R112, R113). -/
inductive Tfc.Completion (P : Params) (t : Tfc) : Byte → Tfc → Prop
  | nop : Completion P t 0x00 t.succeed
  | derive : Completion P t 0x01
      (Tfc.succeed { t with key := P.p16 (t.cred P) t.nonceBlock, keyValid := true, dout := zeros 20, olen := 0 })
  | enc : Completion P t 0x02 (Tfc.succeed { t with dout := P.fenc t.key t.din, olen := 20 })
  | dec : Completion P t 0x03 (Tfc.succeed { t with dout := P.fdec t.key t.din, olen := 20 })
  | blkenc : Completion P t 0x04 (Tfc.succeed { t with dout := blockOut (P.p16 t.bkey t.blockIn), olen := 16 })
  | zeroize : Completion P t 0x05 t.zeroize
  | failed (c : Byte) (e : ErrorKind) (he : e ∈ errorKinds (decodeCommand c)) : Completion P t c (t.fail e)

/-- The dispatch completes so on every byte. -/
theorem Tfc.runCommand_completion (P : Params) (c : Byte) (t : Tfc) : Tfc.Completion P t c (t.runCommand P c) := by
  rcases Tfc.runCommand_cases P c t with
    ⟨rfl, hrun⟩ | ⟨rfl, hrun⟩ | ⟨rfl, hrun⟩ | ⟨rfl, hrun⟩ | ⟨rfl, hrun⟩ | ⟨rfl, hrun⟩ | ⟨hc, hrun⟩ <;> rw [hrun]
  · exact .nop
  · rcases Tfc.derive_cases P t with ⟨_, e⟩ | ⟨_, _, _, e⟩ | ⟨_, _, _, _, e⟩ <;> rw [e]
    · exact .failed _ _ (by decide)
    · exact .failed _ _ (by decide)
    · exact .derive
  · rw [Tfc.enc]
    rcases Tfc.codec_cases P.fenc t with ⟨_, e⟩ | ⟨_, _, e⟩ | ⟨_, _, e⟩ <;> rw [e]
    · exact .failed _ _ (by decide)
    · exact .failed _ _ (by decide)
    · exact .enc
  · rw [Tfc.dec]
    rcases Tfc.codec_cases P.fdec t with ⟨_, e⟩ | ⟨_, _, e⟩ | ⟨_, _, e⟩ <;> rw [e]
    · exact .failed _ _ (by decide)
    · exact .failed _ _ (by decide)
    · exact .dec
  · rcases Tfc.blkenc_cases P t with ⟨_, e⟩ | ⟨_, e⟩ <;> rw [e]
    · exact .failed _ _ (by decide)
    · exact .blkenc
  · exact .zeroize
  · exact .failed _ _ (by simp [(decodeCommand_eq_none_iff c).mpr hc, errorKinds])

section

variable {P : Params} {c : Byte} {t u : Tfc}

/-- A completion is a success, of a code that selects a command, or a failure with an error of the code's row. -/
theorem Tfc.Completion.succeeded_or_failed (h : Tfc.Completion P t c u) :
    (u.done = true ∧ u.err = false ∧ u.errcode = 0x00 ∧ decodeCommand c ≠ none) ∨
    (∃ e ∈ errorKinds (decodeCommand c), u = t.fail e) := by
  cases h with
  | failed _ e he => exact .inr ⟨e, he, rfl⟩
  | _ => exact .inl ⟨rfl, rfl, rfl, by decide⟩

/-- Every command keeps the credentials (R54). -/
theorem Tfc.Completion.keeps_credentials (h : Tfc.Completion P t c u) :
    u.name = t.name ∧ u.pass = t.pass ∧ u.nameLen = t.nameLen ∧ u.passLen = t.passLen := by
  cases h <;> exact ⟨rfl, rfl, rfl, rfl⟩

/-- Every command but `ZEROIZE` keeps the nonces, `BKEY`, `DIN` and `DLEN` (R54). -/
theorem Tfc.Completion.keeps_operands (h : Tfc.Completion P t c u) (hc : c ≠ 0x05) :
    u.nl = t.nl ∧ u.nr = t.nr ∧ u.nlLen = t.nlLen ∧ u.nrLen = t.nrLen ∧ u.bkey = t.bkey ∧ u.din = t.din ∧
      u.dlen = t.dlen := by
  cases h with
  | zeroize => exact absurd rfl hc
  | _ => exact ⟨rfl, rfl, rfl, rfl, rfl, rfl, rfl⟩

/-- Every command but `DERIVE` and `ZEROIZE` keeps the key (R11, R12). -/
theorem Tfc.Completion.keeps_key (h : Tfc.Completion P t c u) (hderive : c ≠ 0x01) (hzeroize : c ≠ 0x05) :
    u.key = t.key ∧ u.keyValid = t.keyValid := by
  cases h with
  | derive => exact absurd rfl hderive
  | zeroize => exact absurd rfl hzeroize
  | _ => exact ⟨rfl, rfl⟩

end

/-- The instructions that write a code to `CMD`: the command of the code and its `WR8`. -/
theorem eq_of_encode_cmd {i : Instr} {c : Byte} (h : encode i = .write 0x00 0 c) :
    decodeCommand c = some i ∨ i = .wr8 0x00 c := by
  cases i with
  | rd8 off => cases h
  | wr8 off v =>
    cases h
    exact .inr rfl
  | _ =>
    cases h
    exact .inl rfl

/-- Settles O24: the errors of a command are those of its code's row, and `WR8` at 0x00 is held to its byte's row. -/
theorem commandCompletions : Obligations.CommandCompletions := by
  intro i s hi
  obtain ⟨c, hc, hexec⟩ := exec_commandWrite i s hi
  refine ⟨_, hexec, ?_⟩
  rw [State.respond_tfc]
  rcases (s.tfc.runCommand_completion Config.params c).succeeded_or_failed with ⟨hdone, herr, hcode, hsel⟩ | ⟨e, he, hfail⟩
  · refine .inl ⟨hdone, herr, hcode, ?_⟩
    rintro c' rfl
    cases hc
    exact hsel
  · refine .inr ⟨e, hfail, ?derive, ?codec, ?blkenc, ?nop, ?zeroize, ne_payloadTooLarge_of_mem he, ?wr8⟩
    all_goals obtain ⟨hnone, hderive, hcodec, hblkenc, hnop, hzeroize⟩ := errorKinds_row he
    case derive =>
      rintro rfl
      cases hc
      exact hderive rfl
    case codec =>
      rintro (rfl | rfl)
      · cases hc
        exact hcodec (.inl rfl)
      · cases hc
        exact hcodec (.inr rfl)
    case blkenc =>
      rintro rfl
      cases hc
      exact hblkenc rfl
    case nop =>
      rintro rfl
      cases hc
      exact hnop rfl
    case zeroize =>
      rintro rfl
      cases hc
      exact hzeroize rfl
    case wr8 =>
      rintro c' rfl
      cases hc
      exact ⟨hnone, hderive, hcodec, hblkenc, hnop, hzeroize⟩

/-- Settles O25: the frame of the code's completion, for the instructions that write the code. -/
theorem commandFrame : Obligations.CommandFrame := by
  intro i s t hi h
  obtain ⟨c, hc, hexec⟩ := exec_commandWrite i s hi
  cases hexec.symm.trans h
  rw [State.respond_tfc]
  have hrun := s.tfc.runCommand_completion Config.params c
  refine ⟨hrun.keeps_credentials, fun hz hw => hrun.keeps_operands ?operands,
    fun hnot => hrun.keeps_key ?notDerive ?notZeroize, ?nop, rfl, rfl⟩
  case operands =>
    rintro rfl
    rcases eq_of_encode_cmd hc with hsel | rfl
    · exact hz (Option.some.inj hsel).symm
    · exact hw rfl
  case notDerive | notZeroize =>
    rintro rfl
    rcases eq_of_encode_cmd hc with hsel | rfl
    · cases hsel
      simp at hnot
    · simp at hnot
  case nop =>
    rintro rfl
    cases hc
    exact ⟨rfl, rfl⟩

/-! ### A command repeated at once -/

/-- Over-long credentials fail (R66). -/
theorem Tfc.derive_of_overlong (P : Params) {t : Tfc} (h : P.nameW.val < t.nameLen.toNat ∨ P.passW < t.passLen.toNat) :
    t.derive P = t.fail .invalidCredentials :=
  if_pos h

section

variable {P : Params} {t : Tfc} (hname : t.nameLen.toNat ≤ P.nameW.val) (hpass : t.passLen.toNat ≤ P.passW)

include hname hpass

/-- With legal credentials a nonce of another length than 8 fails (R66). -/
theorem Tfc.derive_of_badNonce (hnonce : t.nlLen.toNat ≠ 8 ∨ t.nrLen.toNat ≠ 8) :
    t.derive P = t.fail .pairingNonceError :=
  (if_neg (not_or.mpr ⟨hname.not_gt, hpass.not_gt⟩)).trans (if_pos hnonce)

/-- With legal lengths the key is derived (R65). -/
theorem Tfc.derive_of_legal (hnl : t.nlLen.toNat = 8) (hnr : t.nrLen.toNat = 8) :
    t.derive P =
      Tfc.succeed { t with key := P.p16 (t.cred P) t.nonceBlock, keyValid := true, dout := zeros 20, olen := 0 } :=
  (if_neg (not_or.mpr ⟨hname.not_gt, hpass.not_gt⟩)).trans (if_neg (not_or.mpr ⟨not_not.mpr hnl, not_not.mpr hnr⟩))

end

/-- `DERIVE` reads none of what it writes (R42, R65). -/
theorem Tfc.derive_derive (P : Params) (t : Tfc) : (t.derive P).derive P = t.derive P := by
  rcases Tfc.derive_cases P t with ⟨hlong, e⟩ | ⟨hname, hpass, hnonce, e⟩ | ⟨hname, hpass, hnl, hnr, e⟩ <;> rw [e]
  · exact Tfc.derive_of_overlong P (t := t.fail _) hlong
  · exact Tfc.derive_of_badNonce (t := t.fail _) hname hpass hnonce
  · exact Tfc.derive_of_legal (t := Tfc.succeed _) hname hpass hnl hnr

/-- `ENC` and `DEC` read none of what they write (R42, R73, R74). -/
theorem Tfc.codec_codec (f : Bytes 16 → Bytes 20 → Bytes 20) (t : Tfc) : (t.codec f).codec f = t.codec f := by
  rcases Tfc.codec_cases f t with ⟨hkey, e⟩ | ⟨hkey, hlen, e⟩ | ⟨hkey, hlen, e⟩ <;> rw [e]
  · exact Tfc.codec_of_noSession f (t := t.fail _) hkey
  · exact (if_neg (ne_false_of_eq_true hkey)).trans (if_pos hlen)
  · exact (if_neg (ne_false_of_eq_true hkey)).trans (if_neg (not_not.mpr hlen))

/-- `BLKENC` reads none of what it writes (R42, R82). -/
theorem Tfc.blkenc_blkenc (P : Params) (t : Tfc) : (t.blkenc P).blkenc P = t.blkenc P := by
  rcases Tfc.blkenc_cases P t with ⟨hlen, e⟩ | ⟨hlen, e⟩ <;> rw [e]
  · exact if_pos hlen
  · exact if_neg (not_not.mpr hlen)

/-- A byte written to `CMD` twice does what it does once. -/
theorem Tfc.runCommand_runCommand (P : Params) (c : Byte) (t : Tfc) :
    (t.runCommand P c).runCommand P c = t.runCommand P c := by
  rcases Tfc.runCommand_cases P c t with
    ⟨rfl, _⟩ | ⟨rfl, _⟩ | ⟨rfl, _⟩ | ⟨rfl, _⟩ | ⟨rfl, _⟩ | ⟨rfl, _⟩ | ⟨hc, _⟩
  · rfl
  · exact t.derive_derive P
  · exact t.codec_codec P.fenc
  · exact t.codec_codec P.fdec
  · exact t.blkenc_blkenc P
  · exact t.zeroize_zeroize
  · rw [Tfc.runCommand_illegal P _ hc, Tfc.runCommand_illegal P _ hc]
    rfl

/-- Settles O28: the repeated write is the same code on the TFC it left. -/
theorem commandsIdempotent : Obligations.CommandsIdempotent := by
  intro i s t hi h
  obtain ⟨c, hc, hexec⟩ := exec_commandWrite i s hi
  cases hexec.symm.trans h
  refine ⟨_, exec_eq_access i _, ?_⟩
  rw [hc]
  exact s.tfc.runCommand_runCommand Config.params c

/-! ### `ENC` and the cleartext -/

/-- Settles O33: `ENC` fails with the output cleared, or it had a session and puts out the ciphertext. -/
theorem cleartextBoundary : Obligations.CleartextBoundary := by
  intro s
  refine ⟨_, exec_enc s, ?_⟩
  rw [State.respond_tfc]
  rcases Tfc.codec_cases Config.params.fenc s.tfc with ⟨_, e⟩ | ⟨_, _, e⟩ | ⟨hkey, _, e⟩ <;> rw [e]
  · exact .inr ⟨rfl, rfl⟩
  · exact .inr ⟨rfl, rfl⟩
  · exact .inl ⟨rfl, hkey, rfl⟩

/-- Settles O41: both outputs are ciphertexts under the one key, and `FENC` is injective (R6). -/
theorem distinctFramesStayDistinct : Obligations.DistinctFramesStayDistinct := by
  intro s s' t t' hvalid hvalid' hlen hlen' hkey hdin h h'
  cases (exec_enc s).symm.trans h
  cases (exec_enc s').symm.trans h'
  rw [State.respond_tfc, State.respond_tfc, Tfc.codec_of_session _ hvalid hlen, Tfc.codec_of_session _ hvalid' hlen']
  intro hdout
  have hsame : Config.params.fenc s.tfc.key s'.tfc.din = Config.params.fenc s.tfc.key s.tfc.din := by
    simpa only [hkey] using hdout
  exact hdin (Config.params.fenc_injective s.tfc.key hsame)

end Sys2Proof.Machine
end

section
/-! PROOF. The invariant of the machine: it holds after reset, every completion and every store keeps it (R12, R22, R23, R25,
R26, R112), and so does every step. -/

namespace Sys2Proof.Machine

/-- The reset values meet the invariant (R30). -/
theorem Tfc.reset_inv : Tfc.reset.Inv where
  noKeyWithoutSession _ := rfl
  notBoth := by decide
  errIffCode := by decide
  codeRaised := by decide
  olenValues := by decide
  zeroBeyond i _ := zeros_getElem 20 i.val i.isLt
  noResultAfterError _ := rfl

/-- No error has the code of success (R26, R110). -/
theorem ErrorKind.code_ne_zero (e : ErrorKind) : e.code ≠ 0x00 := by
  cases e <;> decide

/-- The codes the TFC raises are those of R110 but `PayloadTooLarge`'s. -/
theorem ErrorKind.code_mem {e : ErrorKind} (he : e ≠ .payloadTooLarge) :
    e.code ∈ [(0x00 : Byte), 0x01, 0x02, 0x03, 0x05, 0x06] := by
  cases e with
  | payloadTooLarge => exact absurd rfl he
  | _ => decide

/-- A failure with an error the TFC raises keeps the invariant (R112). -/
theorem Tfc.fail_inv {t : Tfc} {e : ErrorKind} (ht : t.Inv) (he : e ≠ .payloadTooLarge) : (t.fail e).Inv where
  noKeyWithoutSession := ht.noKeyWithoutSession
  notBoth := by simp
  errIffCode := iff_of_true rfl e.code_ne_zero
  codeRaised := e.code_mem he
  olenValues := by simp
  zeroBeyond i _ := zeros_getElem 20 i.val i.isLt
  noResultAfterError _ := rfl

/-- A success has the invariant if its key and its output are as the invariant says (R113). -/
theorem Tfc.succeed_inv {t : Tfc} (hkey : t.keyValid = false → t.key = zeros 16) (holen : t.olen ∈ [(0 : Byte), 16, 20])
    (hdout : ∀ i : Fin 20, t.olen.toNat ≤ i.val → t.dout[i] = 0x00) : t.succeed.Inv where
  noKeyWithoutSession := hkey
  notBoth := by simp
  errIffCode := by simp
  codeRaised := by simp
  olenValues := holen
  zeroBeyond := hdout
  noResultAfterError := by simp

/-- Every completion of a command keeps the invariant. -/
theorem Tfc.Completion.inv {P : Params} {c : Byte} {t u : Tfc} (h : Tfc.Completion P t c u) (ht : t.Inv) : u.Inv := by
  cases h with
  | nop => exact Tfc.succeed_inv ht.noKeyWithoutSession ht.olenValues ht.zeroBeyond
  | derive => exact Tfc.succeed_inv (fun h => nomatch h) (by simp) fun i _ => zeros_getElem 20 i.val i.isLt
  | enc | dec => exact Tfc.succeed_inv ht.noKeyWithoutSession (by simp) fun i hi => absurd hi (by simp)
  | blkenc => exact Tfc.succeed_inv ht.noKeyWithoutSession (by simp) fun i hi => blockOut_high _ i.val hi i.isLt
  | zeroize => exact Tfc.succeed_inv (fun _ => rfl) (by simp) fun i _ => zeros_getElem 20 i.val i.isLt
  | failed c e he => exact Tfc.fail_inv ht (ne_payloadTooLarge_of_mem he)

/-- A write other than a command keeps the invariant: it keeps the key or clears it, and the rest is the completion of the last
command (R28, R39). -/
theorem Tfc.store_inv (P : Params) {l : Loc} (v : Byte) {t : Tfc} (hc : l ≠ .cmd) (ht : t.Inv) : (t.store P l v).Inv := by
  obtain ⟨hdone, herr, hcode, hdout, holen⟩ := Tfc.store_keeps_result P v t hc
  have hkey : (t.store P l v).keyValid = false → (t.store P l v).key = zeros 16 := by
    cases hl : l.isCredential with
    | true => exact fun _ => (Tfc.store_endsSession P v t hl).left
    | false =>
      obtain ⟨hk, hkv⟩ := Tfc.store_keeps_key P v t hc hl
      rw [hk, hkv]
      exact ht.noKeyWithoutSession
  constructor
  case noKeyWithoutSession => exact hkey
  all_goals simp only [hdone, herr, hcode, hdout, holen]
  · exact ht.notBoth
  · exact ht.errIffCode
  · exact ht.codeRaised
  · exact ht.olenValues
  · exact ht.zeroBeyond
  · exact ht.noResultAfterError

/-- Every access keeps the invariant. -/
theorem Tfc.access_inv (P : Params) (b : BusAccess) {t : Tfc} (ht : t.Inv) : (t.access P b).1.Inv := by
  rcases Tfc.access_effect P b t with e | ⟨c, _, e⟩ | ⟨off, v, _, hc, e⟩ <;> rw [e]
  · exact ht
  · exact (t.runCommand_completion P c).inv ht
  · exact Tfc.store_inv P v hc ht

/-- Settles O29: the reset values, with `RST` released. -/
theorem invariantAtReset : Obligations.InvariantAtReset :=
  ⟨Tfc.reset_inv, fun _ => rfl⟩

/-- Settles O30: a step is idle, or drives `RST` and resets while it is asserted, or performs an access with `RST` released. -/
theorem stepKeepsInvariant : Obligations.StepKeepsInvariant := by
  intro s t hs h
  rcases step_next_cases h with ⟨_, rfl⟩ | ⟨level, rest, _, rfl⟩ | ⟨b, rest, _, hr, rfl⟩
  · exact hs
  · refine ⟨?_, fun hlevel => ?_⟩
    · rw [State.driveRst_tfc]
      split
      · exact Tfc.reset_inv
      · exact hs.tfc
    · obtain rfl : level = true := hlevel
      rfl
  · exact ⟨Tfc.access_inv Config.params b hs.tfc, fun hr' => absurd hr (ne_false_of_eq_true hr')⟩

end Sys2Proof.Machine
end

section
/-! PROOF. The session key: the events that change it (R11, R12), the machine with another key in place of its own, which no
script without `ENC` and `DEC` tells apart from it (R13), and the statements about both. -/

namespace Sys2Proof.Machine

/-! ### What changes the key -/

/-- A command that changes the key is a successful `DERIVE`, or `ZEROIZE` (R11, R12). -/
theorem Tfc.Completion.key_change {P : Params} {c : Byte} {t u : Tfc} (h : Tfc.Completion P t c u)
    (hne : u.key ≠ t.key ∨ u.keyValid ≠ t.keyValid) :
    (c = 0x01 ∧ u.keyValid = true ∧ u.done = true ∧ u.key = P.p16 (t.cred P) t.nonceBlock) ∨
    (c = 0x05 ∧ u.keyValid = false ∧ u.key = zeros 16) := by
  cases h with
  | derive => exact .inl ⟨rfl, rfl, rfl, rfl⟩
  | zeroize => exact .inr ⟨rfl, rfl, rfl⟩
  | _ => simp at hne

/-- Settles O31: by the effects of an access, a command's or a store's, and at an edge of `RST` by the reset values. -/
theorem keyWrittenOnlyAsListed : Obligations.KeyWrittenOnlyAsListed := by
  intro s t h hne
  rcases step_next_cases h with ⟨_, rfl⟩ | ⟨level, rest, hs, rfl⟩ | ⟨b, rest, hs, _, rfl⟩
  · simp at hne
  · refine ⟨_, rest, hs, .inr ?_⟩
    rw [State.driveRst_tfc, State.advance_rst, State.advance_tfc] at hne ⊢
    cases hedge : level || s.rst with
    | false => simp [hedge] at hne
    | true => exact ⟨rfl, rfl, .inr (.inr ⟨level, rfl, by simpa using hedge⟩)⟩
  · refine ⟨_, rest, hs, ?_⟩
    rw [State.respond_tfc] at hne ⊢
    rcases Tfc.access_effect Config.params b s.tfc with e | ⟨c, rfl, e⟩ | ⟨off, v, rfl, hc, e⟩ <;> rw [e] at hne ⊢
    · simp at hne
    · rcases (s.tfc.runCommand_completion Config.params c).key_change hne with
        ⟨rfl, hvalid, hdone, hkey⟩ | ⟨rfl, hvalid, hkey⟩
      · exact .inl ⟨rfl, hvalid, hdone, hkey⟩
      · exact .inr ⟨hvalid, hkey, .inl rfl⟩
    · cases hl : (locate off).isCredential with
      | false =>
        obtain ⟨hk, hkv⟩ := Tfc.store_keeps_key Config.params v s.tfc hc hl
        simp [hk, hkv] at hne
      | true =>
        obtain ⟨hkey, hvalid⟩ := Tfc.store_endsSession Config.params v s.tfc hl
        exact .inr ⟨hvalid, hkey, .inr (.inl ⟨off, v, rfl, (isCredential_locate off).symm.trans hl⟩)⟩

/-! ### The TFC with another key -/

/-- The TFC with `k` in place of its session key. -/
def Tfc.withKey (k : Bytes 16) (t : Tfc) : Tfc := { t with key := k }

/-- No location holds the key (R11, R13). -/
theorem Tfc.contents_withKey (k : Bytes 16) (t : Tfc) (l : Loc) : (t.withKey k).contents l = t.contents l := by
  cases l <;> rfl

/-- A read finds the same byte whatever the key. -/
theorem Tfc.memRead_withKey (k : Bytes 16) (t : Tfc) (off : BitVec 7) : (t.withKey k).memRead off = t.memRead off := by
  rw [Tfc.memRead, Tfc.memRead, Tfc.contents_withKey]

/-- `DERIVE` reads no key: a failure keeps the other key and a success puts the same key in both places (R65). -/
theorem Tfc.derive_withKey (P : Params) (k : Bytes 16) (t : Tfc) :
    ∃ k', (t.withKey k).derive P = (t.derive P).withKey k' := by
  rcases Tfc.derive_cases P t with ⟨hlong, e⟩ | ⟨hname, hpass, hnonce, e⟩ | ⟨hname, hpass, hnl, hnr, e⟩ <;> rw [e]
  · exact ⟨k, Tfc.derive_of_overlong P (t := t.withKey k) hlong⟩
  · exact ⟨k, Tfc.derive_of_badNonce (t := t.withKey k) hname hpass hnonce⟩
  · exact ⟨_, Tfc.derive_of_legal (t := t.withKey k) hname hpass hnl hnr⟩

/-- `BLKENC` neither reads nor writes the session key (R82). -/
theorem Tfc.blkenc_withKey (P : Params) (k : Bytes 16) (t : Tfc) : (t.withKey k).blkenc P = (t.blkenc P).withKey k := by
  rcases Tfc.blkenc_cases P t with ⟨hlen, e⟩ | ⟨hlen, e⟩ <;> rw [e]
  · exact if_pos hlen
  · exact if_neg (not_not.mpr hlen)

/-- A command other than `ENC` and `DEC` does to the TFC what it does with another key, but for the key. -/
theorem Tfc.runCommand_withKey (P : Params) {c : Byte} (k : Bytes 16) (t : Tfc) (henc : c ≠ 0x02) (hdec : c ≠ 0x03) :
    ∃ k', (t.withKey k).runCommand P c = (t.runCommand P c).withKey k' := by
  rcases Tfc.runCommand_cases P c t with
    ⟨rfl, _⟩ | ⟨rfl, _⟩ | ⟨rfl, _⟩ | ⟨rfl, _⟩ | ⟨rfl, _⟩ | ⟨rfl, _⟩ | ⟨hc, e⟩
  · exact ⟨k, rfl⟩
  · exact t.derive_withKey P k
  · exact absurd rfl henc
  · exact absurd rfl hdec
  · exact ⟨k, t.blkenc_withKey P k⟩
  · exact ⟨zeros 16, rfl⟩
  · exact ⟨k, by rw [Tfc.runCommand_illegal P _ hc, e]; rfl⟩

/-- A write other than a command keeps the other key or clears it. -/
theorem Tfc.store_withKey (P : Params) {l : Loc} (k : Bytes 16) (v : Byte) (t : Tfc) (hc : l ≠ .cmd) :
    ∃ k', (t.withKey k).store P l v = (t.store P l v).withKey k' := by
  cases l with
  | cmd => exact absurd rfl hc
  | nameLen | passLen | name _ | pass _ => exact ⟨zeros 16, rfl⟩
  | _ => exact ⟨k, rfl⟩

/-- An access other than the write of `ENC`'s or `DEC`'s code gives the same response, and the same TFC but for the key. -/
theorem Tfc.access_withKey (P : Params) (b : BusAccess) (k : Bytes 16) (t : Tfc)
    (hb : (HostEvent.access b).isFrameCommand = false) :
    ∃ k', (t.withKey k).access P b = ((t.access P b).1.withKey k', (t.access P b).2) := by
  rcases Nat.eq_zero_or_pos b.extra with hbyte | hw
  · cases b with
    | read off extra =>
      obtain rfl : extra = 0 := hbyte
      exact ⟨k, congrArg (Prod.mk (t.withKey k)) (t.memRead_withKey k off)⟩
    | write off extra v =>
      obtain rfl : extra = 0 := hbyte
      have hstore : ∃ k', (t.withKey k).store P (locate off) v = (t.store P (locate off) v).withKey k' := by
        by_cases ho : off = 0x00
        · subst ho
          obtain ⟨henc, hdec⟩ : v ≠ 0x02 ∧ v ≠ 0x03 := by simpa [HostEvent.isFrameCommand] using hb
          exact t.runCommand_withKey P k henc hdec
        · exact t.store_withKey P k v (mt (locate_eq_cmd_iff off).mp ho)
      obtain ⟨k', hk'⟩ := hstore
      exact ⟨k', by rw [Tfc.access_write, Tfc.access_write, Tfc.memWrite_eq, Tfc.memWrite_eq, hk']⟩
  · exact ⟨k, by rw [Tfc.access_wide P b _ hw, Tfc.access_wide P b _ hw]⟩

/-! ### The machine with another key -/

/-- The machine with `k` in place of its session key. -/
def State.withKey (k : Bytes 16) (s : State) : State := { s with tfc := s.tfc.withKey k }

/-- The machines that differ only in the key are this one with other keys. -/
theorem State.sameButKey_iff (s s' : State) : s.SameButKey s' ↔ ∃ k, s' = s.withKey k := by
  refine ⟨fun h => ⟨s'.tfc.key, h⟩, ?_⟩
  rintro ⟨k, rfl⟩
  rfl

/-- Driving `RST` keeps the other key or resets it (R30). -/
theorem State.driveRst_withKey (level : Bool) (k : Bytes 16) (s : State) :
    ∃ k', (s.withKey k).driveRst level = (s.driveRst level).withKey k' := by
  cases hedge : level || s.rst with
  | false => exact ⟨k, by simp [State.driveRst, State.withKey, hedge]⟩
  | true => exact ⟨zeros 16, by simp [State.driveRst, State.withKey, hedge]; rfl⟩

/-- The events still to come after a step were to come before it. -/
theorem step_script_subset {s t : State} (h : step s = .next t) : t.script ⊆ s.script := by
  rcases step_next_cases h with ⟨_, rfl⟩ | ⟨_, _, hs, rfl⟩ | ⟨_, _, hs, _, rfl⟩
  · exact List.Subset.refl _
  · rw [hs]
    exact List.subset_cons_self _ _
  · rw [hs]
    exact List.subset_cons_self _ _

/-- A step whose event is no `ENC` and no `DEC` does the same with another key, but for the key. -/
theorem step_withKey (k : Bytes 16) (s : State) (hs : ∀ e ∈ s.script, e.isFrameCommand = false) :
    (∃ t k', step s = .next t ∧ step (s.withKey k) = .next (t.withKey k')) ∨
    (∃ r, step s = .refused r ∧ step (s.withKey k) = .refused r) := by
  rcases step_cases s with ⟨hscript, e⟩ | ⟨level, rest, hscript, e⟩ | ⟨b, rest, hscript, ⟨hr, e⟩ | ⟨hr, e⟩⟩
  · exact .inl ⟨s, k, e, step_idle hscript⟩
  · obtain ⟨k', hk'⟩ := (s.advance rest).driveRst_withKey level k
    exact .inl ⟨_, k', e, (step_rst (s := s.withKey k) hscript).trans (congrArg Host.Outcome.next hk')⟩
  · exact .inr ⟨_, e, step_access_inReset hr hscript⟩
  · have hb : (HostEvent.access b).isFrameCommand = false := hs _ (hscript ▸ List.mem_cons_self)
    obtain ⟨k', hk'⟩ := s.tfc.access_withKey Config.params b k hb
    refine .inl ⟨_, k', e, (step_access (s := s.withKey k) hr hscript).trans ?_⟩
    exact congrArg (fun p => Host.Outcome.next (((s.withKey k).advance rest).respond p.1 p.2)) hk'

/-- So does a run of any length. -/
theorem run_withKey (n : Nat) (k : Bytes 16) (s : State) (hs : ∀ e ∈ s.script, e.isFrameCommand = false) :
    (∃ t k', core.run n s = .next t ∧ core.run n (s.withKey k) = .next (State.withKey k' t)) ∨
    (∃ r, core.run n s = .refused r ∧ core.run n (s.withKey k) = .refused r) := by
  induction n generalizing s k with
  | zero => exact .inl ⟨s, k, rfl, rfl⟩
  | succ n ih =>
    rcases step_withKey k s hs with ⟨t, k', h, h'⟩ | ⟨r, h, h'⟩
    · rw [core_run_next n h, core_run_next n h']
      exact ih k' t fun e he => hs e (step_script_subset h he)
    · exact .inr ⟨r, core_run_refused n h, core_run_refused n h'⟩

/-- Settles O32: a run with another key goes along with the first, whose outcome is one of the two. -/
theorem keyUnobservableWithoutFrames : Obligations.KeyUnobservableWithoutFrames := by
  intro n s s' hsame hs
  obtain ⟨k, rfl⟩ := (State.sameButKey_iff s s').mp hsame
  rcases run_withKey n k s hs with ⟨t, k', h, h'⟩ | ⟨r, h, h'⟩
  · refine ⟨fun u hu => ?_, fun r hr => (by cases h.symm.trans hr)⟩
    cases h.symm.trans hu
    exact ⟨_, h', (State.sameButKey_iff t _).mpr ⟨k', rfl⟩, rfl⟩
  · refine ⟨fun u hu => (by cases h.symm.trans hu), fun r' hr => ?_⟩
    cases h.symm.trans hr
    exact h'

end Sys2Proof.Machine
end

section
/-! PROOF. What `DERIVE` takes from the credentials, and its key as a block result (R69, R84): the declared bytes, the zero
padding, the agreement with `BLKENC`, and the statements about them. -/

namespace Sys2Proof.Machine

/-- `DERIVE` answers the derivation with `P16` (R65). -/
theorem exec_derive (s : State) : exec .derive s = .next (s.respond (s.tfc.derive Config.params) .ack) := rfl

/-- `DERIVE` succeeds exactly with legal lengths (R65, R66). -/
theorem Tfc.derive_done_iff (P : Params) (t : Tfc) :
    (t.derive P).done = true ↔
      t.nameLen.toNat ≤ P.nameW.val ∧ t.passLen.toNat ≤ P.passW ∧ t.nlLen.toNat = 8 ∧ t.nrLen.toNat = 8 := by
  rcases Tfc.derive_cases P t with ⟨hlong, e⟩ | ⟨_, _, hnonce, e⟩ | ⟨hname, hpass, hnl, hnr, e⟩ <;> rw [e]
  · exact iff_of_false Bool.false_ne_true (by omega)
  · exact iff_of_false Bool.false_ne_true (by omega)
  · exact iff_of_true rfl ⟨hname, hpass, hnl, hnr⟩

/-- A `DERIVE` that succeeds stores the key derived (R65, R67). -/
theorem Tfc.derive_key {P : Params} {t : Tfc} (h : (t.derive P).done = true) :
    (t.derive P).key = P.p16 (t.cred P) t.nonceBlock := by
  obtain ⟨hname, hpass, hnl, hnr⟩ := (t.derive_done_iff P).mp h
  exact congrArg Tfc.key (Tfc.derive_of_legal hname hpass hnl hnr)

/-- The credential buffer depends on the declared bytes only (R64). -/
theorem Tfc.cred_congr (P : Params) {t t' : Tfc} (hnl : t'.nameLen = t.nameLen) (hpl : t'.passLen = t.passLen)
    (hname : ∀ i : Fin 16, i.val < t.nameLen.toNat → t'.name[i] = t.name[i])
    (hpass : ∀ i : Fin 16, i.val < t.passLen.toNat → t'.pass[i] = t.pass[i]) : t'.cred P = t.cred P := by
  refine Vector.ext fun i hi => ?_
  rw [Tfc.cred_getElem, Tfc.cred_getElem, hnl, hpl]
  split
  · exact ite_congr rfl (hname ⟨i, hi⟩) fun _ => rfl
  · exact ite_congr rfl (hpass ⟨i - P.nameW.val, by omega⟩) fun _ => rfl

/-- Settles O38: the lengths that let one `DERIVE` succeed let the other, and the two keys have the same operands. -/
theorem staleCredentialBytesIgnored : Obligations.StaleCredentialBytesIgnored := by
  intro s s' t hnameLen hpassLen hnlLen hnrLen hnl hnr hname hpass h hdone
  cases (exec_derive s).symm.trans h
  have hdone' : (s'.tfc.derive Config.params).done = true := by
    rw [Tfc.derive_done_iff, hnameLen, hpassLen, hnlLen, hnrLen]
    exact (s.tfc.derive_done_iff _).mp hdone
  have hcred := Tfc.cred_congr Config.params hnameLen hpassLen hname hpass
  have hnonces : s'.tfc.nonceBlock = s.tfc.nonceBlock := by rw [Tfc.nonceBlock, Tfc.nonceBlock, hnl, hnr]
  refine ⟨_, exec_derive s', hdone', ?_⟩
  calc (s'.tfc.derive Config.params).key
    _ = Config.params.p16 (s'.tfc.cred Config.params) s'.tfc.nonceBlock := Tfc.derive_key hdone'
    _ = Config.params.p16 (s.tfc.cred Config.params) s.tfc.nonceBlock := by rw [hcred, hnonces]
    _ = (s.tfc.derive Config.params).key := (Tfc.derive_key hdone).symm

/-- Settles O39: the byte newly declared is the zero that stood there as padding. -/
theorem trailingZeroIsPadding : Obligations.TrailingZeroIsPadding := by
  intro P t i hi hzero
  have hlen : (t.nameLen + 1).toNat = t.nameLen.toNat + 1 := by
    have hi16 := i.isLt
    have hone : (1 : Byte).toNat = 1 := rfl
    rw [BitVec.toNat_add, hone]
    omega
  refine Vector.ext fun j hj => ?_
  rw [Tfc.cred_getElem, Tfc.cred_getElem]
  simp only [hlen]
  split
  · rcases Nat.lt_trichotomy j t.nameLen.toNat with hlt | heq | hgt
    · rw [if_pos (by omega), if_pos hlt]
    · obtain rfl : j = i.val := by omega
      rw [if_pos (by omega), if_neg (by omega)]
      exact hzero
    · rw [if_neg (by omega), if_neg (by omega)]
  · rfl

/-- The block operand is the nonce block where `DIN` holds the nonces (R67, R82). -/
theorem Tfc.blockIn_eq_nonceBlock {t t' : Tfc}
    (h : ∀ i : Fin 8, t'.din[i.val] = t.nl[i] ∧ t'.din[8 + i.val] = t.nr[i]) : t'.blockIn = t.nonceBlock := by
  refine Vector.ext fun i hi => ?_
  rw [Tfc.blockIn_getElem]
  by_cases hlow : i < 8
  · rw [Tfc.nonceBlock_low t i hlow]
    exact (h ⟨i, hlow⟩).left
  · obtain ⟨j, rfl⟩ := Nat.exists_eq_add_of_le (Nat.not_lt.mp hlow)
    rw [Tfc.nonceBlock_high t j (by omega)]
    exact (h ⟨j, by omega⟩).right

/-- Settles O40: both results are `P16` of the credential buffer and the nonce block. -/
theorem deriveAgreesWithBlkenc : Obligations.DeriveAgreesWithBlkenc := by
  intro s s' hname hpass hnl hnr hbkey hlen hdin
  refine ⟨_, _, exec_derive s, exec_blkenc s', fun i => ?_⟩
  have hdone : (s.tfc.derive Config.params).done = true :=
    (s.tfc.derive_done_iff _).mpr ⟨hname, hpass, congrArg BitVec.toNat hnl, congrArg BitVec.toNat hnr⟩
  simp only [State.respond_tfc, Tfc.blkenc_of_dlen Config.params hlen, Tfc.derive_key hdone, hbkey,
    Tfc.blockIn_eq_nonceBlock hdin]
  exact blockOut_low _ i.val i.isLt

end Sys2Proof.Machine
end

section
/-! PROOF. The host's script of a frame (R61, R62): `DIN` loaded, the length declared and `ENC` or `DEC` run, on the TFC and on
the machine; the round trip (R77) and its statement. -/

namespace Sys2Proof.Machine

/-! ### The script of a frame -/

/-- A byte written to `DIN` (R36, R39). -/
theorem Tfc.access_write_din (P : Params) (i : Fin 20) (v : Byte) (t : Tfc) :
    t.access P (.write (BitVec.ofNat 7 (0x50 + i.val)) 0 v) = ({ t with din := t.din.set i v }, .ack) := by
  have hl : locate (BitVec.ofNat 7 (0x50 + i.val)) = .din i := locate_offset (.din i) (by simp)
  rw [Tfc.access_write, Tfc.memWrite_eq, hl]
  rfl

/-- Loading a frame from byte `i` on, where the bytes before it stand in `DIN`, leaves the frame there (R61). -/
theorem Tfc.play_writes_din (P : Params) (x : Bytes 20) {i : Nat} (hi : i ≤ 20) (t : Tfc)
    (hbefore : ∀ j, ∀ _ : j < i, t.din[j] = x[j]) :
    (t.play P (writesFrom (0x50 + i) (x.toList.drop i))).1 = { t with din := x } := by
  induction hi using Nat.decreasingInduction generalizing t with
  | self =>
    obtain rfl : t.din = x := Vector.ext hbefore
    rw [List.drop_of_length_le (by simp)]
    rfl
  | of_succ i hi ih =>
    have hdrop : x.toList.drop i = x[i] :: x.toList.drop (i + 1) := by
      rw [List.drop_eq_getElem_cons (by simpa using hi)]
      simp
    rw [hdrop, writesFrom, Tfc.play, Tfc.access_write_din P ⟨i, hi⟩]
    refine (ih _ fun j hj => ?_).trans rfl
    change (t.din.set i x[i])[j] = x[j]
    rw [Vector.getElem_set]
    split
    · simp only [*]
    · exact hbefore j (by omega)

/-- The script of `encrypt` and `decrypt` on a frame: load it, declare its length, write the command's code (R62). -/
def frameScript (c : Byte) (x : Bytes 20) : List BusAccess :=
  loadScript .din x.toList ++ setScript .dlen (lengthByte x.toList.length) ++ commandScript c

theorem encScript_eq (x : Bytes 20) : encScript x.toList = frameScript 0x02 x := rfl

theorem decScript_eq (x : Bytes 20) : decScript x.toList = frameScript 0x03 x := rfl

/-- Such a script runs its command on the TFC with the frame and its length loaded. -/
theorem Tfc.play_frameScript (P : Params) (c : Byte) (x : Bytes 20) (t : Tfc) :
    (t.play P (frameScript c x)).1 = Tfc.runCommand P c { t with din := x, dlen := 20 } := by
  have hload : (t.play P (loadScript .din x.toList)).1 = { t with din := x } := by
    have htake : x.toList.take Buffer.din.size = x.toList := List.take_of_length_le (by simp [Buffer.size])
    rw [loadScript, htake]
    exact Tfc.play_writes_din P x (Nat.zero_le 20) t fun j hj => absurd hj (Nat.not_lt_zero j)
  rw [frameScript, Tfc.play_append, Tfc.play_append, hload, Vector.length_toList]
  rfl

theorem writesFrom_length (at0 : Nat) (vs : List Byte) : (writesFrom at0 vs).length = vs.length := by
  induction vs generalizing at0 with
  | nil => rfl
  | cons v vs ih => simp only [writesFrom, List.length_cons, ih]

/-- 20 bytes, the length and the command. -/
theorem frameScript_length (c : Byte) (x : Bytes 20) : (frameScript c x).length = 22 := by
  simp [frameScript, loadScript, setScript, commandScript, writesFrom_length, Buffer.size]

/-! ### `ENC` and `DEC` by script -/

section

variable {P : Params} {c : Byte} {f : Bytes 16 → Bytes 20 → Bytes 20} (hc : ∀ t : Tfc, t.runCommand P c = t.codec f)

include hc

/-- In a session the script of either codec command puts out the transform of the frame, whatever the other registers hold. -/
theorem Tfc.play_codec_of_session {t : Tfc} (hkey : t.keyValid = true) (x : Bytes 20) :
    (t.play P (frameScript c x)).1 =
      { t with
        din := x, dlen := 20, dout := f t.key x, olen := 20, done := true, err := false, errcode := 0x00 } := by
  rw [Tfc.play_frameScript, hc]
  exact Tfc.codec_of_session f (t := { t with din := x, dlen := 20 }) hkey rfl

/-- Without a session it fails (R75). -/
theorem Tfc.play_codec_of_noSession {t : Tfc} (hkey : t.keyValid = false) (x : Bytes 20) :
    (t.play P (frameScript c x)).1 = Tfc.fail .noActiveSession { t with din := x, dlen := 20 } := by
  rw [Tfc.play_frameScript, hc]
  exact Tfc.codec_of_noSession f (t := { t with din := x, dlen := 20 }) hkey

end

/-- The code 0x02 runs the codec with `FENC` (R56). -/
theorem Tfc.runCommand_enc (P : Params) (t : Tfc) : t.runCommand P 0x02 = t.codec P.fenc := rfl

/-- The code 0x03 runs the codec with `FDEC` (R56). -/
theorem Tfc.runCommand_dec (P : Params) (t : Tfc) : t.runCommand P 0x03 = t.codec P.fdec := rfl

/-! ### The round trip -/

/-- The machine runs a frame's script in 22 steps. -/
theorem run_frameScript {s : State} (hr : s.rst = false) (c : Byte) (x : Bytes 20) :
    ∃ t, core.run 22 { s with script := (frameScript c x).map .access } = .next t ∧ t.rst = false ∧
      t.tfc = (s.tfc.play Config.params (frameScript c x)).1 := by
  have hrun := scriptIsFold (frameScript c x) { s with script := (frameScript c x).map .access } [] hr (by simp)
  rw [frameScript_length] at hrun
  exact ⟨_, hrun, hr, rfl⟩

/-- Two codec commands whose second transform undoes the first leave the frame in `DOUT`. -/
theorem run_codec_codec {c c' : Byte} {f f' : Bytes 16 → Bytes 20 → Bytes 20}
    (hc : ∀ t : Tfc, t.runCommand Config.params c = t.codec f)
    (hc' : ∀ t : Tfc, t.runCommand Config.params c' = t.codec f') (hinv : ∀ k x, f' k (f k x) = x)
    {s : State} (hr : s.rst = false) (hkey : s.tfc.keyValid = true) (x : Bytes 20) :
    ∃ t u, core.run 22 { s with script := (frameScript c x).map .access } = .next t ∧ t.tfc.dout = f s.tfc.key x ∧
      core.run 22 { t with script := (frameScript c' t.tfc.dout).map .access } = .next u ∧ u.tfc.dout = x := by
  obtain ⟨t, ht, htr, htfc⟩ := run_frameScript hr c x
  rw [Tfc.play_codec_of_session hc hkey] at htfc
  obtain ⟨u, hu, _, hufc⟩ := run_frameScript htr c' t.tfc.dout
  have htkey : t.tfc.keyValid = true := by rw [htfc]; exact hkey
  rw [Tfc.play_codec_of_session hc' htkey] at hufc
  refine ⟨t, u, ht, by rw [htfc], hu, ?_⟩
  rw [hufc, htfc]
  exact hinv s.tfc.key x

/-- Settles O34: `FDEC` undoes `FENC` by the law of R6, and `FENC` undoes `FDEC` by the bijection. -/
theorem commandRoundTrip : Obligations.CommandRoundTrip := fun _ x hr hkey =>
  ⟨run_codec_codec (Tfc.runCommand_enc _) (Tfc.runCommand_dec _) Config.params.fdec_fenc hr hkey x,
    run_codec_codec (Tfc.runCommand_dec _) (Tfc.runCommand_enc _) Config.params.fenc_fdec hr hkey x⟩

end Sys2Proof.Machine
end

section
/-! PROOF. The host software over the frame's script: the build of a frame (R90, R92) and its layout (R70), the dispatch of an
inbound one (R96 to R98), and the statements about them. -/

namespace Sys2Proof.Machine

/-! ### The packet builder -/

/-- The host finds the error that `ERR` and `ERRCODE` hold (R25, R104). -/
theorem Tfc.lastError_eq (t : Tfc) : t.lastError = if t.err then some t.errcode else none := by
  have hbit : ∀ k d e : Bool, (flagByte k ||| (flagByte d <<< 1) ||| (flagByte e <<< 2)).getLsbD 2 = e := by decide
  have hstatus : t.memRead 0x01 = .data t.status := rfl
  have hcode : t.memRead 0x02 = .data t.errcode := rfl
  rw [Tfc.lastError, hstatus, hcode, Response.byte, Response.byte, Tfc.status, hbit]

section

variable {P : Params} {H : HostParams} {h : HostState} {t t' : Tfc} {command : Byte} {payload : List Byte} {address : Bytes 6}
  (hfits : payload.length ≤ 10)
  (hplay : (t.play P (frameScript 0x02 (layoutFrame H h.seq command address payload))).1 = t')

include hfits hplay

/-- A build whose `ENC` succeeds returns `DOUT` and counts (R90, R92). -/
theorem build_of_noError (herr : t'.err = false) :
    build P H h t command payload address = ({ h with seq := h.seq + 1 }, t', .ok t'.dout) := by
  simp only [build, if_neg hfits.not_gt, encScript_eq, hplay, Tfc.lastError_eq, herr, Tfc.readDout_eq, Bool.false_eq_true,
    ↓reduceIte]

/-- A build whose `ENC` fails returns its error and does not count (R90, R92). -/
theorem build_of_error (herr : t'.err = true) :
    build P H h t command payload address = (h, t', .error t'.errcode) := by
  simp only [build, if_neg hfits.not_gt, encScript_eq, hplay, Tfc.lastError_eq, herr, ↓reduceIte]

end

/-- A payload that does not fit fails before the TFC is used (R90). -/
theorem build_of_tooLarge (P : Params) (H : HostParams) (h : HostState) (t : Tfc) (command : Byte) {payload : List Byte}
    (address : Bytes 6) (hlong : 10 < payload.length) :
    build P H h t command payload address = (h, t, .error 0x04) :=
  if_pos hlong

/-- Settles O43: the script of the frame laid out succeeds in a session and keeps the key. -/
theorem buildSucceedsInSession : Obligations.BuildSucceedsInSession :=
  fun P _ _ _ _ _ _ hkey hfits =>
    ⟨_, build_of_noError hfits (Tfc.play_codec_of_session (Tfc.runCommand_enc P) hkey _) rfl, rfl, hkey⟩

/-- Settles O44: the length is checked before the TFC is used, and without a session the `ENC` fails. -/
theorem buildFailures : Obligations.BuildFailures := by
  intro P H h t command payload address
  refine ⟨fun hlong _ => build_of_tooLarge P H h t command address hlong, fun hfits hkey => ?_, fun hlong hkey => ?_⟩
  · exact ⟨_, build_of_error hfits (Tfc.play_codec_of_noSession (Tfc.runCommand_enc P) hkey _) rfl, rfl, hkey⟩
  · exact ⟨t, _, build_of_tooLarge P H h t command address hlong, .inl rfl, rfl, hkey⟩

section

variable (H : HostParams) (seq : BitVec 16) (command : Byte) (address : Bytes 6) (payload : List Byte)

/-- The sequence field, the command and the vendor byte (R70). -/
theorem layoutFrame_header :
    (layoutFrame H seq command address payload)[0] = (seqBytes H.seqOrder seq).1 ∧
      (layoutFrame H seq command address payload)[1] = (seqBytes H.seqOrder seq).2 ∧
      (layoutFrame H seq command address payload)[2] = command ∧
      (layoutFrame H seq command address payload)[3] = H.vendorByte := by
  simp [layoutFrame]

/-- The address field (R70). -/
theorem layoutFrame_address (i : Nat) (hi : i < 6) :
    (layoutFrame H seq command address payload)[4 + i] = address[i] := by
  simp (disch := omega) only [layoutFrame, Vector.getElem_ofFn, if_neg, dif_pos, Nat.add_sub_cancel_left]

/-- The payload field, zero beyond the payload's end (R70, R90). -/
theorem layoutFrame_payload (i : Nat) (hi : i < 10) :
    (layoutFrame H seq command address payload)[10 + i] = payload.getD i 0x00 := by
  simp (disch := omega) only [layoutFrame, Vector.getElem_ofFn, if_neg, dif_neg, Nat.add_sub_cancel_left]

end

/-- The two bytes of a number as `SEQ_ORDER` names them (R44). -/
theorem seq_bytes_toNat (seq : BitVec 16) :
    (seq.extractLsb' 0 8).toNat = seq.toNat % 256 ∧ (seq.extractLsb' 8 8).toNat = seq.toNat / 256 := by
  have h := seq.isLt
  simp only [BitVec.extractLsb'_toNat, Nat.shiftRight_eq_div_pow]
  omega

/-- Settles O42: field by field, with the sequence field's bytes in either order. -/
theorem layoutFrameFields : Obligations.LayoutFrameFields := by
  intro H seq command address canonical payload
  obtain ⟨hlow, hhigh⟩ := seq_bytes_toNat seq
  obtain ⟨hfirst, hsecond, hcommand, hvendor⟩ := layoutFrame_header H seq command address payload
  refine ⟨fun horder => ?le, fun horder => ?be, hcommand, hvendor,
    fun i => layoutFrame_address H seq command address payload i.val i.isLt, fun i => ?reversed, fun i => ?payload⟩
  case le =>
    rw [hfirst, hsecond, horder]
    exact ⟨hlow, hhigh⟩
  case be =>
    rw [hfirst, hsecond, horder]
    exact ⟨hhigh, hlow⟩
  case reversed =>
    rw [layoutFrame_address H seq command _ payload i.val i.isLt]
    exact reversedAddress_getElem canonical i.val i.isLt
  case payload =>
    rw [layoutFrame_payload H seq command address payload i.val i.isLt]
    split
    · exact List.getD_eq_getElem _ _ ‹_›
    · exact List.getD_eq_default _ _ (Nat.not_lt.mp ‹_›)

/-! ### The command dispatcher -/

/-- An inbound frame in a session: `DEC` succeeds, and the report is the dispatch of the cleartext (R76, R96). -/
theorem onInbound_of_session (P : Params) (H : HostParams) (h : HostState) {t : Tfc} (y : Bytes 20) (hkey : t.keyValid = true) :
    ∃ t', t'.dout = P.fdec t.key y ∧
      onInbound P H h t y =
        (h.feedback (dispatchFrame H (P.fdec t.key y)), t', .ok (dispatchFrame H (P.fdec t.key y))) := by
  have hplay := Tfc.play_codec_of_session (Tfc.runCommand_dec P) hkey y
  refine ⟨(t.play P (frameScript 0x03 y)).1, by rw [hplay], ?_⟩
  simp only [onInbound, decScript_eq, hplay, Tfc.lastError_eq, Tfc.readDout_eq, Bool.false_eq_true, ↓reduceIte]

/-- No report touches the counter (R91, R99). -/
theorem HostState.feedback_seq (r : Report) (h : HostState) : (h.feedback r).seq = h.seq := by
  cases r <;> rfl

/-- A frame whose command byte is not registered is `Unrecognized` (R98). -/
theorem dispatchFrame_of_unregistered {H : HostParams} {f : Bytes 20} (h : H.kindOf f[2] = none) :
    dispatchFrame H f = .unrecognized f[2] (framePayload f) := by
  rcases dispatchFrame_cases H f with ⟨kind, hkind, _⟩ | ⟨_, e⟩
  · cases h.symm.trans hkind
  · exact e

/-- Settles O46: the report is the dispatch of the cleartext, and an `Unrecognized` one feeds nothing back. -/
theorem inboundNeverAborts : Obligations.InboundNeverAborts := by
  intro P H h t y hkey
  obtain ⟨t', hdout, hin⟩ := onInbound_of_session P H h y hkey
  refine ⟨_, t', _, hin, hdout, HostState.feedback_seq _ h, fun hnone => ?_⟩
  rw [dispatchFrame_of_unregistered hnone]
  exact ⟨rfl, rfl⟩

/-- Settles O45: dispatch by cases, with the payload read as the frame's field. -/
theorem dispatchRoutesToParser : Obligations.DispatchRoutesToParser := by
  intro H f payload hpayload
  obtain rfl : payload = framePayload f :=
    Vector.ext fun i hi => (hpayload ⟨i, hi⟩).trans (framePayload_getElem f i hi).symm
  refine ⟨fun kind hkind haccepted => ?registered, fun haccepted => ?refused, dispatchFrame_of_unregistered, fun hzero => ?zero⟩
  case registered =>
    rcases dispatchFrame_cases H f with ⟨kind', hkind', _, e⟩ | ⟨hnone | hrefused, _⟩
    · obtain rfl : kind' = kind := Option.some.inj (hkind'.symm.trans hkind)
      rw [e]
      refine ⟨?_, ?_, ?_, ?_, ?_⟩ <;> rintro rfl <;> rfl
    · cases hnone.symm.trans hkind
    · cases hrefused.symm.trans haccepted
  case refused =>
    rcases dispatchFrame_cases H f with ⟨_, _, haccepted', _⟩ | ⟨_, e⟩
    · cases haccepted.symm.trans haccepted'
    · exact e
  case zero =>
    rw [← hzero]
    exact dispatchFrame_of_unregistered (if_pos hzero)

end Sys2Proof.Machine
end
